-- ==== Sys2Proof/Word.lean ====
section
/-! DEFINITION. The two widths of the CORE (R7): 8-bit data and 16-bit pairs, SP, PC and addresses. -/

namespace Sys2Proof

/-- A register, a memory byte, an 8-bit operand (R7: data width 8 bits). -/
abbrev Byte := BitVec 8

/-- A register pair, SP, PC or a bus address (R7, R60); `+` and `-` wrap modulo 2^16 (R10, R66). -/
abbrev Word := BitVec 16

end Sys2Proof
end

