-- ==== Sys2Proof/Syntax.lean ====
section
/-! DEFINITION. The instructions: one constructor per row of spec/opcode_table.json (30_encoding.md), with the operand
kinds of R105-R113, and the parts of an opcode descriptor (R118). -/

namespace Sys2Proof

/-- The eight registers of the register file (R20). -/
inductive Reg where
  | a | f | b | c | d | e | h | l
deriving DecidableEq, Repr

/-- What an r8 field may name as a register (R106): code 110 is the HL-pointed byte, a form of its own, and F has no
code ("7 usable 8-bit registers"). -/
inductive R8 where
  | b | c | d | e | h | l | a
deriving DecidableEq, Repr

/-- The register pairs (R22). In the stack-pointer variant of the field (R108) `af` stands for SP (R27). -/
inductive Pair where
  | bc | de | hl | af
deriving DecidableEq, Repr

/-- The conditions of field cc (R109). -/
inductive Cond where
  | nz | z | nc | c
deriving DecidableEq, Repr

/-- The rows of spec/opcode_table.json, in its order. `n` is an immediate byte (n8) or 16-bit value (n16), `e` a signed
byte (e8), `u` a bit or restart index (u3). The last two rows are "not an instruction" in the table: `prefixCB b` is the
0xCB byte followed by `b` (R409) and `unmapped b` is a slot with no descriptor (R115, R413). -/
inductive Instr where
  -- loads, stores, push and pop (41_load_store.md)
  | ldR8R8 (rd r : R8)
  | ldR8N8 (rd : R8) (n : Byte)
  | ldR8HL (rd : R8)
  | ldHLR8 (r : R8)
  | ldHLN8 (n : Byte)
  | ldABC
  | ldADE
  | ldBCA
  | ldDEA
  | ldAN16 (n : Word)
  | ldN16A (n : Word)
  | ldhAN8 (n : Byte)
  | ldhN8A (n : Byte)
  | ldhAC
  | ldhCA
  | ldAHLI
  | ldAHLD
  | ldHLIA
  | ldHLDA
  | ldR16N16 (p : Pair) (n : Word)
  | ldN16SP (n : Word)
  | ldSPHL
  | pushR16 (p : Pair)
  | popR16 (p : Pair)
  -- arithmetic (42_arith.md)
  | addR8 (r : R8)
  | addN8 (n : Byte)
  | addHL
  | adcR8 (r : R8)
  | adcN8 (n : Byte)
  | adcHL
  | subR8 (r : R8)
  | subN8 (n : Byte)
  | subHL
  | sbcR8 (r : R8)
  | sbcN8 (n : Byte)
  | sbcHL
  | cpR8 (r : R8)
  | cpN8 (n : Byte)
  | cpHL
  | incR8 (rd : R8)
  | incHL
  | decR8 (rd : R8)
  | decHL
  | incR16 (p : Pair)
  | decR16 (p : Pair)
  | addHLR16 (p : Pair)
  | addSPE8 (e : Byte)
  | ldHLSPE8 (e : Byte)
  -- logic, complement, decimal adjust, carry flag (43_logic.md)
  | andR8 (r : R8)
  | andN8 (n : Byte)
  | andHL
  | orR8 (r : R8)
  | orN8 (n : Byte)
  | orHL
  | xorR8 (r : R8)
  | xorN8 (n : Byte)
  | xorHL
  | cpl
  | daa
  | scf
  | ccf
  -- rotates, shifts, swap (44_rotate_shift.md)
  | rlca
  | rrca
  | rla
  | rra
  | rlcR8 (r : R8)
  | rlcHL
  | rrcR8 (r : R8)
  | rrcHL
  | rlR8 (r : R8)
  | rlHL
  | rrR8 (r : R8)
  | rrHL
  | slaR8 (r : R8)
  | slaHL
  | sraR8 (r : R8)
  | sraHL
  | swapR8 (r : R8)
  | swapHL
  | srlR8 (r : R8)
  | srlHL
  -- single bits (45_bit.md)
  | bitR8 (u : BitVec 3) (r : R8)
  | bitHL (u : BitVec 3)
  | resR8 (u : BitVec 3) (r : R8)
  | resHL (u : BitVec 3)
  | setR8 (u : BitVec 3) (r : R8)
  | setHL (u : BitVec 3)
  -- jumps, calls, returns, restarts (46_control.md)
  | jpN16 (n : Word)
  | jpCcN16 (cc : Cond) (n : Word)
  | jpHL
  | jrE8 (e : Byte)
  | jrCcE8 (cc : Cond) (e : Byte)
  | callN16 (n : Word)
  | callCcN16 (cc : Cond) (n : Word)
  | rstU3 (u : BitVec 3)
  | ret
  | retCc (cc : Cond)
  | reti
  -- system (47_system.md)
  | nop
  | di
  | ei
  | halt
  | stop
  -- the table's two rows that are no instruction
  | prefixCB (b : Byte)
  | unmapped (b : Byte)
deriving DecidableEq, Repr

/-- The two opcode spaces (R100, R118). -/
inductive Kind where
  | plain | prefixed
deriving DecidableEq, Repr

/-- The instruction families of the opcode table's `family` column (R118, R119). -/
inductive Family where
  | LD_R8_R8 | LD_R8_N8 | LD_R8_HLR | LD_HLR_R8 | LD_HLR_N8 | LD_A_BCR | LD_A_DER | LD_BCR_A | LD_DER_A
  | LD_A_N16R | LD_N16R_A | LD_A_N8R | LD_N8R_A | LD_A_CR | LD_CR_A | LD_A_HLRU | LD_HLRU_A
  | LD_R16SP_N16 | LD_N16R_SP | LD_SP_HL | PUSH_R16 | POP_R16
  | ADD_A_R8 | ADD_A_N8 | ADD_A_HLR | SUB_A_R8 | SUB_A_N8 | SUB_A_HLR | CP_A_R8 | CP_A_N8 | CP_A_HLR
  | INC_R8 | INC_HLR | DEC_R8 | DEC_HLR | INC_R16SP | DEC_R16SP | ADD_HL_R16SP | LD_HLSP_S8
  | AND_A_R8 | AND_A_N8 | AND_A_HLR | OR_A_R8 | OR_A_N8 | OR_A_HLR | XOR_A_R8 | XOR_A_N8 | XOR_A_HLR
  | CPL | DAA | SCCF | ROTCA | ROTA
  | ROTC_R8 | ROTC_HLR | ROT_R8 | ROT_HLR | SLA_R8 | SLA_HLR | SRA_R8 | SRA_HLR | SWAP_R8 | SWAP_HLR | SRL_R8 | SRL_HLR
  | BIT_U3_R8 | BIT_U3_HLR | CHG_U3_R8 | CHG_U3_HLR
  | JP_N16 | JP_CC_N16 | JP_HL | JR_E8 | JR_CC_E8 | CALL_N16 | CALL_CC_N16 | RST_U3 | RET | RET_CC | RETI
  | NOP | EDI | HALT | STOP
deriving DecidableEq, Repr

/-- An opcode descriptor less its encoding byte (R118): the family, the opcode space, the total length in bytes, the
base cycle cost and the cost added when a condition holds. -/
structure Descriptor where
  family : Family
  kind : Kind
  length : Nat
  cycles : Nat
  extra : Nat
deriving DecidableEq, Repr

end Sys2Proof
end

