-- ==== Sys2Proof/WellFormed.lean ====
section
/-! DEFINITION. Which terms of Instr are what the decoder reads from some words. The operand types already exclude a
register code 110 (R106) and every out-of-width operand (R143, R415); two rows of the table need a check. -/

namespace Sys2Proof

/-- The eleven plain slots with no descriptor (R115). -/
def unmappedSlots : List Byte :=
  [0xD3, 0xDB, 0xDD, 0xE3, 0xE4, 0xEB, 0xEC, 0xED, 0xF4, 0xFC, 0xFD]

/-- `unmapped b` stands for a slot of R115 only. `prefixCB b` is never what a decoder reads: its words are those of the
prefixed row of `b` (R104, R409), so it is another spelling of that row's instruction (log 9). -/
def WellFormed : Instr → Bool
  | .prefixCB _ => false
  | .unmapped b => unmappedSlots.contains b
  | _ => true

end Sys2Proof
end

