-- ==== Sys2Proof/Decode.lean ====
section
/-! DEFINITION. The opcode decode ROM (30_encoding.md): fields, the two tables, the descriptors, the decoder on bytes,
and after it the encoder, written from the encodings of the instruction rules. -/

namespace Sys2Proof

/-! ### Fields of an opcode byte (R105-R109) -/

/-- The register an r8 code names; code 110, the HL-pointed byte, names none (R106). -/
def R8.ofCode (k : BitVec 3) : Option R8 :=
  match k with
  | 0b000#3 => some .b
  | 0b001#3 => some .c
  | 0b010#3 => some .d
  | 0b011#3 => some .e
  | 0b100#3 => some .h
  | 0b101#3 => some .l
  | 0b110#3 => none
  | _ => some .a

/-- The r8 code of a register (R106). -/
def R8.code : R8 → BitVec 3
  | .b => 0b000
  | .c => 0b001
  | .d => 0b010
  | .e => 0b011
  | .h => 0b100
  | .l => 0b101
  | .a => 0b111

/-- The pair a 2-bit code names (R107); where the instruction substitutes SP, `af` stands for SP (R108). -/
def Pair.ofCode (k : BitVec 2) : Pair :=
  match k with
  | 0b00#2 => .bc
  | 0b01#2 => .de
  | 0b10#2 => .hl
  | _ => .af

/-- The code of a pair (R107, R108). -/
def Pair.code : Pair → BitVec 2
  | .bc => 0b00
  | .de => 0b01
  | .hl => 0b10
  | .af => 0b11

/-- The condition a 2-bit code names (R109). -/
def Cond.ofCode (k : BitVec 2) : Cond :=
  match k with
  | 0b00#2 => .nz
  | 0b01#2 => .z
  | 0b10#2 => .nc
  | _ => .c

/-- The code of a condition (R109). -/
def Cond.code : Cond → BitVec 2
  | .nz => 0b00
  | .z => 0b01
  | .nc => 0b10
  | .c => 0b11

/-- Bits 7:6 of an opcode byte (R105, field op). -/
def opX (b : Byte) : BitVec 2 := b.extractLsb' 6 2

/-- Bits 5:3: the destination r8 code, or u3 (R105). -/
def opY (b : Byte) : BitVec 3 := b.extractLsb' 3 3

/-- Bits 2:0: the source r8 code (R105). -/
def opZ (b : Byte) : BitVec 3 := b.extractLsb' 0 3

/-- Bits 5:4: the pair code (R105). -/
def opP (b : Byte) : BitVec 2 := b.extractLsb' 4 2

/-- Bits 4:3: the condition code (R105). -/
def opCc (b : Byte) : BitVec 2 := b.extractLsb' 3 2

/-- A 16-bit immediate from its two bytes, the low byte first in memory (R112). -/
def imm16 (lo hi : Byte) : Word := hi ++ lo

/-! ### The tables (R114-R119) -/

/-- The prefixed table: the instruction of the byte after 0xCB. Every slot holds one (R116, R105). -/
def decodePrefixed (b : Byte) : Instr :=
  match opX b, R8.ofCode (opZ b) with
  | 0b00#2, some r =>
    match opY b with
    | 0b000#3 => .rlcR8 r
    | 0b001#3 => .rrcR8 r
    | 0b010#3 => .rlR8 r
    | 0b011#3 => .rrR8 r
    | 0b100#3 => .slaR8 r
    | 0b101#3 => .sraR8 r
    | 0b110#3 => .swapR8 r
    | _ => .srlR8 r
  | 0b00#2, none =>
    match opY b with
    | 0b000#3 => .rlcHL
    | 0b001#3 => .rrcHL
    | 0b010#3 => .rlHL
    | 0b011#3 => .rrHL
    | 0b100#3 => .slaHL
    | 0b101#3 => .sraHL
    | 0b110#3 => .swapHL
    | _ => .srlHL
  | 0b01#2, some r => .bitR8 (opY b) r
  | 0b01#2, none => .bitHL (opY b)
  | 0b10#2, some r => .resR8 (opY b) r
  | 0b10#2, none => .resHL (opY b)
  | _, some r => .setR8 (opY b) r
  | _, none => .setHL (opY b)

/-- Plain bytes 0x00-0x3F (R119); `n` is the byte after the opcode, `nn` the two bytes after it. -/
def decodeBlock0 (b n : Byte) (nn : Word) : Instr :=
  match opZ b with
  | 0b000#3 =>
    match opY b with
    | 0b000#3 => .nop
    | 0b001#3 => .ldN16SP nn
    | 0b010#3 => .stop
    | 0b011#3 => .jrE8 n
    | _ => .jrCcE8 (Cond.ofCode (opCc b)) n
  | 0b001#3 => if b.getLsbD 3 then .addHLR16 (Pair.ofCode (opP b)) else .ldR16N16 (Pair.ofCode (opP b)) nn
  | 0b010#3 =>
    match opY b with
    | 0b000#3 => .ldBCA
    | 0b001#3 => .ldABC
    | 0b010#3 => .ldDEA
    | 0b011#3 => .ldADE
    | 0b100#3 => .ldHLIA
    | 0b101#3 => .ldAHLI
    | 0b110#3 => .ldHLDA
    | _ => .ldAHLD
  | 0b011#3 => if b.getLsbD 3 then .decR16 (Pair.ofCode (opP b)) else .incR16 (Pair.ofCode (opP b))
  | 0b100#3 =>
    match R8.ofCode (opY b) with
    | some rd => .incR8 rd
    | none => .incHL
  | 0b101#3 =>
    match R8.ofCode (opY b) with
    | some rd => .decR8 rd
    | none => .decHL
  | 0b110#3 =>
    match R8.ofCode (opY b) with
    | some rd => .ldR8N8 rd n
    | none => .ldHLN8 n
  | _ =>
    match opY b with
    | 0b000#3 => .rlca
    | 0b001#3 => .rrca
    | 0b010#3 => .rla
    | 0b011#3 => .rra
    | 0b100#3 => .daa
    | 0b101#3 => .cpl
    | 0b110#3 => .scf
    | _ => .ccf

/-- Plain bytes 0x40-0x7F (R119): the r8 moves, and HALT in the slot of LD [HL],[HL] (R383). -/
def decodeBlock1 (b : Byte) : Instr :=
  match R8.ofCode (opY b), R8.ofCode (opZ b) with
  | some rd, some r => .ldR8R8 rd r
  | some rd, none => .ldR8HL rd
  | none, some r => .ldHLR8 r
  | none, none => .halt

/-- Plain bytes 0x80-0xBF (R119): the 8-bit ALU operations on A. -/
def decodeBlock2 (b : Byte) : Instr :=
  match R8.ofCode (opZ b) with
  | some r =>
    match opY b with
    | 0b000#3 => .addR8 r
    | 0b001#3 => .adcR8 r
    | 0b010#3 => .subR8 r
    | 0b011#3 => .sbcR8 r
    | 0b100#3 => .andR8 r
    | 0b101#3 => .xorR8 r
    | 0b110#3 => .orR8 r
    | _ => .cpR8 r
  | none =>
    match opY b with
    | 0b000#3 => .addHL
    | 0b001#3 => .adcHL
    | 0b010#3 => .subHL
    | 0b011#3 => .sbcHL
    | 0b100#3 => .andHL
    | 0b101#3 => .xorHL
    | 0b110#3 => .orHL
    | _ => .cpHL

/-- Plain bytes 0xC0-0xFF (R119). Byte 0xCB diverts to the prefixed table, indexed by the next byte (R114); the slots of
R115 decode to `unmapped`. -/
def decodeBlock3 (b n : Byte) (nn : Word) : Instr :=
  match opZ b with
  | 0b000#3 =>
    match opY b with
    | 0b100#3 => .ldhN8A n
    | 0b101#3 => .addSPE8 n
    | 0b110#3 => .ldhAN8 n
    | 0b111#3 => .ldHLSPE8 n
    | _ => .retCc (Cond.ofCode (opCc b))
  | 0b001#3 =>
    match opY b with
    | 0b001#3 => .ret
    | 0b011#3 => .reti
    | 0b101#3 => .jpHL
    | 0b111#3 => .ldSPHL
    | _ => .popR16 (Pair.ofCode (opP b))
  | 0b010#3 =>
    match opY b with
    | 0b100#3 => .ldhCA
    | 0b101#3 => .ldN16A nn
    | 0b110#3 => .ldhAC
    | 0b111#3 => .ldAN16 nn
    | _ => .jpCcN16 (Cond.ofCode (opCc b)) nn
  | 0b011#3 =>
    match opY b with
    | 0b000#3 => .jpN16 nn
    | 0b001#3 => decodePrefixed n
    | 0b110#3 => .di
    | 0b111#3 => .ei
    | _ => .unmapped b
  | 0b100#3 => if b.getLsbD 5 then .unmapped b else .callCcN16 (Cond.ofCode (opCc b)) nn
  | 0b101#3 =>
    match opY b with
    | 0b001#3 => .callN16 nn
    | 0b011#3 => .unmapped b
    | 0b101#3 => .unmapped b
    | 0b111#3 => .unmapped b
    | _ => .pushR16 (Pair.ofCode (opP b))
  | 0b110#3 =>
    match opY b with
    | 0b000#3 => .addN8 n
    | 0b001#3 => .adcN8 n
    | 0b010#3 => .subN8 n
    | 0b011#3 => .sbcN8 n
    | 0b100#3 => .andN8 n
    | 0b101#3 => .xorN8 n
    | 0b110#3 => .orN8 n
    | _ => .cpN8 n
  | _ => .rstU3 (opY b)

/-- The instruction whose first byte is `b0` and whose next two bytes are `b1`, `b2` (R114); a byte past the
instruction's end has no influence. -/
def decodeBytes (b0 b1 b2 : Byte) : Instr :=
  match opX b0 with
  | 0b00#2 => decodeBlock0 b0 b1 (imm16 b1 b2)
  | 0b01#2 => decodeBlock1 b0
  | 0b10#2 => decodeBlock2 b0
  | _ => decodeBlock3 b0 b1 (imm16 b1 b2)

/-! ### The descriptors (R118, D4) -/

/-- The descriptor of a row of the opcode table (`family`, `kind`, `length`, `cycles`, `cycles_taken_extra`), none for
the two rows that are no instruction. -/
def rowDescriptor : Instr → Option Descriptor
  | .ldR8R8 _ _ => some ⟨.LD_R8_R8, .plain, 1, 1, 0⟩
  | .ldR8N8 _ _ => some ⟨.LD_R8_N8, .plain, 2, 2, 0⟩
  | .ldR8HL _ => some ⟨.LD_R8_HLR, .plain, 1, 2, 0⟩
  | .ldHLR8 _ => some ⟨.LD_HLR_R8, .plain, 1, 2, 0⟩
  | .ldHLN8 _ => some ⟨.LD_HLR_N8, .plain, 2, 3, 0⟩
  | .ldABC => some ⟨.LD_A_BCR, .plain, 1, 2, 0⟩
  | .ldADE => some ⟨.LD_A_DER, .plain, 1, 2, 0⟩
  | .ldBCA => some ⟨.LD_BCR_A, .plain, 1, 2, 0⟩
  | .ldDEA => some ⟨.LD_DER_A, .plain, 1, 2, 0⟩
  | .ldAN16 _ => some ⟨.LD_A_N16R, .plain, 3, 4, 0⟩
  | .ldN16A _ => some ⟨.LD_N16R_A, .plain, 3, 4, 0⟩
  | .ldhAN8 _ => some ⟨.LD_A_N8R, .plain, 2, 3, 0⟩
  | .ldhN8A _ => some ⟨.LD_N8R_A, .plain, 2, 3, 0⟩
  | .ldhAC => some ⟨.LD_A_CR, .plain, 1, 2, 0⟩
  | .ldhCA => some ⟨.LD_CR_A, .plain, 1, 2, 0⟩
  | .ldAHLI => some ⟨.LD_A_HLRU, .plain, 1, 2, 0⟩
  | .ldAHLD => some ⟨.LD_A_HLRU, .plain, 1, 2, 0⟩
  | .ldHLIA => some ⟨.LD_HLRU_A, .plain, 1, 2, 0⟩
  | .ldHLDA => some ⟨.LD_HLRU_A, .plain, 1, 2, 0⟩
  | .ldR16N16 _ _ => some ⟨.LD_R16SP_N16, .plain, 3, 3, 0⟩
  | .ldN16SP _ => some ⟨.LD_N16R_SP, .plain, 3, 5, 0⟩
  | .ldSPHL => some ⟨.LD_SP_HL, .plain, 1, 2, 0⟩
  | .pushR16 _ => some ⟨.PUSH_R16, .plain, 1, 4, 0⟩
  | .popR16 _ => some ⟨.POP_R16, .plain, 1, 3, 0⟩
  | .addR8 _ => some ⟨.ADD_A_R8, .plain, 1, 1, 0⟩
  | .addN8 _ => some ⟨.ADD_A_N8, .plain, 2, 2, 0⟩
  | .addHL => some ⟨.ADD_A_HLR, .plain, 1, 2, 0⟩
  | .adcR8 _ => some ⟨.ADD_A_R8, .plain, 1, 1, 0⟩
  | .adcN8 _ => some ⟨.ADD_A_N8, .plain, 2, 2, 0⟩
  | .adcHL => some ⟨.ADD_A_HLR, .plain, 1, 2, 0⟩
  | .subR8 _ => some ⟨.SUB_A_R8, .plain, 1, 1, 0⟩
  | .subN8 _ => some ⟨.SUB_A_N8, .plain, 2, 2, 0⟩
  | .subHL => some ⟨.SUB_A_HLR, .plain, 1, 2, 0⟩
  | .sbcR8 _ => some ⟨.SUB_A_R8, .plain, 1, 1, 0⟩
  | .sbcN8 _ => some ⟨.SUB_A_N8, .plain, 2, 2, 0⟩
  | .sbcHL => some ⟨.SUB_A_HLR, .plain, 1, 2, 0⟩
  | .cpR8 _ => some ⟨.CP_A_R8, .plain, 1, 1, 0⟩
  | .cpN8 _ => some ⟨.CP_A_N8, .plain, 2, 2, 0⟩
  | .cpHL => some ⟨.CP_A_HLR, .plain, 1, 2, 0⟩
  | .incR8 _ => some ⟨.INC_R8, .plain, 1, 1, 0⟩
  | .incHL => some ⟨.INC_HLR, .plain, 1, 3, 0⟩
  | .decR8 _ => some ⟨.DEC_R8, .plain, 1, 1, 0⟩
  | .decHL => some ⟨.DEC_HLR, .plain, 1, 3, 0⟩
  | .incR16 _ => some ⟨.INC_R16SP, .plain, 1, 2, 0⟩
  | .decR16 _ => some ⟨.DEC_R16SP, .plain, 1, 2, 0⟩
  | .addHLR16 _ => some ⟨.ADD_HL_R16SP, .plain, 1, 2, 0⟩
  | .addSPE8 _ => some ⟨.LD_HLSP_S8, .plain, 2, 4, 0⟩
  | .ldHLSPE8 _ => some ⟨.LD_HLSP_S8, .plain, 2, 3, 0⟩
  | .andR8 _ => some ⟨.AND_A_R8, .plain, 1, 1, 0⟩
  | .andN8 _ => some ⟨.AND_A_N8, .plain, 2, 2, 0⟩
  | .andHL => some ⟨.AND_A_HLR, .plain, 1, 2, 0⟩
  | .orR8 _ => some ⟨.OR_A_R8, .plain, 1, 1, 0⟩
  | .orN8 _ => some ⟨.OR_A_N8, .plain, 2, 2, 0⟩
  | .orHL => some ⟨.OR_A_HLR, .plain, 1, 2, 0⟩
  | .xorR8 _ => some ⟨.XOR_A_R8, .plain, 1, 1, 0⟩
  | .xorN8 _ => some ⟨.XOR_A_N8, .plain, 2, 2, 0⟩
  | .xorHL => some ⟨.XOR_A_HLR, .plain, 1, 2, 0⟩
  | .cpl => some ⟨.CPL, .plain, 1, 1, 0⟩
  | .daa => some ⟨.DAA, .plain, 1, 1, 0⟩
  | .scf => some ⟨.SCCF, .plain, 1, 1, 0⟩
  | .ccf => some ⟨.SCCF, .plain, 1, 1, 0⟩
  | .rlca => some ⟨.ROTCA, .plain, 1, 1, 0⟩
  | .rrca => some ⟨.ROTCA, .plain, 1, 1, 0⟩
  | .rla => some ⟨.ROTA, .plain, 1, 1, 0⟩
  | .rra => some ⟨.ROTA, .plain, 1, 1, 0⟩
  | .rlcR8 _ => some ⟨.ROTC_R8, .prefixed, 2, 2, 0⟩
  | .rlcHL => some ⟨.ROTC_HLR, .prefixed, 2, 4, 0⟩
  | .rrcR8 _ => some ⟨.ROTC_R8, .prefixed, 2, 2, 0⟩
  | .rrcHL => some ⟨.ROTC_HLR, .prefixed, 2, 4, 0⟩
  | .rlR8 _ => some ⟨.ROT_R8, .prefixed, 2, 2, 0⟩
  | .rlHL => some ⟨.ROT_HLR, .prefixed, 2, 4, 0⟩
  | .rrR8 _ => some ⟨.ROT_R8, .prefixed, 2, 2, 0⟩
  | .rrHL => some ⟨.ROT_HLR, .prefixed, 2, 4, 0⟩
  | .slaR8 _ => some ⟨.SLA_R8, .prefixed, 2, 2, 0⟩
  | .slaHL => some ⟨.SLA_HLR, .prefixed, 2, 4, 0⟩
  | .sraR8 _ => some ⟨.SRA_R8, .prefixed, 2, 2, 0⟩
  | .sraHL => some ⟨.SRA_HLR, .prefixed, 2, 4, 0⟩
  | .swapR8 _ => some ⟨.SWAP_R8, .prefixed, 2, 2, 0⟩
  | .swapHL => some ⟨.SWAP_HLR, .prefixed, 2, 4, 0⟩
  | .srlR8 _ => some ⟨.SRL_R8, .prefixed, 2, 2, 0⟩
  | .srlHL => some ⟨.SRL_HLR, .prefixed, 2, 4, 0⟩
  | .bitR8 _ _ => some ⟨.BIT_U3_R8, .prefixed, 2, 2, 0⟩
  | .bitHL _ => some ⟨.BIT_U3_HLR, .prefixed, 2, 3, 0⟩
  | .resR8 _ _ => some ⟨.CHG_U3_R8, .prefixed, 2, 2, 0⟩
  | .resHL _ => some ⟨.CHG_U3_HLR, .prefixed, 2, 4, 0⟩
  | .setR8 _ _ => some ⟨.CHG_U3_R8, .prefixed, 2, 2, 0⟩
  | .setHL _ => some ⟨.CHG_U3_HLR, .prefixed, 2, 4, 0⟩
  | .jpN16 _ => some ⟨.JP_N16, .plain, 3, 4, 0⟩
  | .jpCcN16 _ _ => some ⟨.JP_CC_N16, .plain, 3, 3, 1⟩
  | .jpHL => some ⟨.JP_HL, .plain, 1, 1, 0⟩
  | .jrE8 _ => some ⟨.JR_E8, .plain, 2, 3, 0⟩
  | .jrCcE8 _ _ => some ⟨.JR_CC_E8, .plain, 2, 2, 1⟩
  | .callN16 _ => some ⟨.CALL_N16, .plain, 3, 6, 0⟩
  | .callCcN16 _ _ => some ⟨.CALL_CC_N16, .plain, 3, 3, 3⟩
  | .rstU3 _ => some ⟨.RST_U3, .plain, 1, 4, 0⟩
  | .ret => some ⟨.RET, .plain, 1, 4, 0⟩
  | .retCc _ => some ⟨.RET_CC, .plain, 1, 2, 3⟩
  | .reti => some ⟨.RETI, .plain, 1, 4, 0⟩
  | .nop => some ⟨.NOP, .plain, 1, 1, 0⟩
  | .di => some ⟨.EDI, .plain, 1, 1, 0⟩
  | .ei => some ⟨.EDI, .plain, 1, 1, 0⟩
  | .halt => some ⟨.HALT, .plain, 1, 1, 0⟩
  | .stop => some ⟨.STOP, .plain, 2, 1, 0⟩
  | .prefixCB _ => none
  | .unmapped _ => none
/-- The opcode descriptor (R118): the one of the row; for the prefix, the one of the prefixed row it selects (R409). -/
def Instr.descriptor : Instr → Option Descriptor
  | .prefixCB b => rowDescriptor (decodePrefixed b)
  | i => rowDescriptor i

/-- Total length in bytes (R117); an unmapped slot has none (R117), and the value 0 here is never used. -/
def Instr.length (i : Instr) : Nat := i.descriptor.elim 0 Descriptor.length

/-- Base cycle cost (R118, R411). -/
def Instr.cycles (i : Instr) : Nat := i.descriptor.elim 0 Descriptor.cycles

/-- The cost added when a branch condition holds (R118, R411). -/
def Instr.extraCycles (i : Instr) : Nat := i.descriptor.elim 0 Descriptor.extra

/-! ### The decoder on byte streams -/

/-- How many bytes follow the first byte `b0` in the instruction it starts (R117: the first byte alone tells). -/
def bytesAfter (b0 : Byte) : Nat := (decodeBytes b0 0 0).length - 1

/-- How many of those the CORE reads from the bus: all of them, but STOP's second byte is not read (R384). -/
def bytesReadAfter (b0 : Byte) : Nat :=
  match decodeBytes b0 0 0 with
  | .stop => 0
  | _ => bytesAfter b0

/-- Why a byte stream holds no instruction. An unmapped slot is not among the reasons: it decodes to `unmapped`. -/
inductive DecodeError where
  /-- no byte at all -/
  | noBytes
  /-- the stream ends inside the instruction that `first` starts -/
  | truncated (first : Byte)
deriving DecidableEq, Repr

/-- The first instruction of a byte stream and the bytes after it. -/
def decode : List Byte → Except DecodeError (Instr × List Byte)
  | [] => .error .noBytes
  | b0 :: rest =>
    if rest.length < bytesAfter b0 then .error (.truncated b0)
    else .ok (decodeBytes b0 (rest.getD 0 0) (rest.getD 1 0), rest.drop (bytesAfter b0))

/-- The instruction of a word numbered as spec/opcode_table.json numbers it: byte 0 in bits 7:0, byte 1 in bits 15:8,
byte 2 in bits 23:16; the bits from `nbits` up are zero. -/
def decodeTableWord (nbits w : Nat) : Option Instr :=
  let v := w % 2 ^ nbits
  match decode [BitVec.ofNat 8 v, BitVec.ofNat 8 (v / 256), BitVec.ofNat 8 (v / 65536)] with
  | .ok (i, _) => some i
  | .error _ => none

/-! ### The encoder -/

/-- Low byte, then high byte (R103, R112). -/
def le16 (n : Word) : List Byte := [n.extractLsb' 0 8, n.extractLsb' 8 8]

/-- The words of an instruction, from the encodings of its rule ("Encoding" line; the `encoding` column of the opcode
table). STOP's ignored second byte is written 0x00, as is conventional (R384). -/
def encode : Instr → List Byte
  | .ldR8R8 rd r => [0b01#2 ++ rd.code ++ r.code]
  | .ldR8N8 rd n => [0b00#2 ++ rd.code ++ 0b110#3, n]
  | .ldR8HL rd => [0b01#2 ++ rd.code ++ 0b110#3]
  | .ldHLR8 r => [0b01110#5 ++ r.code]
  | .ldHLN8 n => [0b00110110, n]
  | .ldABC => [0x0A]
  | .ldADE => [0x1A]
  | .ldBCA => [0x02]
  | .ldDEA => [0x12]
  | .ldAN16 n => 0xFA :: le16 n
  | .ldN16A n => 0xEA :: le16 n
  | .ldhAN8 n => [0xF0, n]
  | .ldhN8A n => [0xE0, n]
  | .ldhAC => [0xF2]
  | .ldhCA => [0xE2]
  | .ldAHLI => [0x2A]
  | .ldAHLD => [0x3A]
  | .ldHLIA => [0x22]
  | .ldHLDA => [0x32]
  | .ldR16N16 p n => (0b00#2 ++ p.code ++ 0b0001#4) :: le16 n
  | .ldN16SP n => 0x08 :: le16 n
  | .ldSPHL => [0xF9]
  | .pushR16 p => [0b11#2 ++ p.code ++ 0b0101#4]
  | .popR16 p => [0b11#2 ++ p.code ++ 0b0001#4]
  | .addR8 r => [0b10000#5 ++ r.code]
  | .addN8 n => [0xC6, n]
  | .addHL => [0x86]
  | .adcR8 r => [0b10001#5 ++ r.code]
  | .adcN8 n => [0xCE, n]
  | .adcHL => [0x8E]
  | .subR8 r => [0b10010#5 ++ r.code]
  | .subN8 n => [0xD6, n]
  | .subHL => [0x96]
  | .sbcR8 r => [0b10011#5 ++ r.code]
  | .sbcN8 n => [0xDE, n]
  | .sbcHL => [0x9E]
  | .cpR8 r => [0b10111#5 ++ r.code]
  | .cpN8 n => [0xFE, n]
  | .cpHL => [0xBE]
  | .incR8 rd => [0b00#2 ++ rd.code ++ 0b100#3]
  | .incHL => [0x34]
  | .decR8 rd => [0b00#2 ++ rd.code ++ 0b101#3]
  | .decHL => [0x35]
  | .incR16 p => [0b00#2 ++ p.code ++ 0b0011#4]
  | .decR16 p => [0b00#2 ++ p.code ++ 0b1011#4]
  | .addHLR16 p => [0b00#2 ++ p.code ++ 0b1001#4]
  | .addSPE8 e => [0xE8, e]
  | .ldHLSPE8 e => [0xF8, e]
  | .andR8 r => [0b10100#5 ++ r.code]
  | .andN8 n => [0xE6, n]
  | .andHL => [0xA6]
  | .orR8 r => [0b10110#5 ++ r.code]
  | .orN8 n => [0xF6, n]
  | .orHL => [0xB6]
  | .xorR8 r => [0b10101#5 ++ r.code]
  | .xorN8 n => [0xEE, n]
  | .xorHL => [0xAE]
  | .cpl => [0x2F]
  | .daa => [0x27]
  | .scf => [0x37]
  | .ccf => [0x3F]
  | .rlca => [0x07]
  | .rrca => [0x0F]
  | .rla => [0x17]
  | .rra => [0x1F]
  | .rlcR8 r => [0xCB, 0b00000#5 ++ r.code]
  | .rlcHL => [0xCB, 0x06]
  | .rrcR8 r => [0xCB, 0b00001#5 ++ r.code]
  | .rrcHL => [0xCB, 0x0E]
  | .rlR8 r => [0xCB, 0b00010#5 ++ r.code]
  | .rlHL => [0xCB, 0x16]
  | .rrR8 r => [0xCB, 0b00011#5 ++ r.code]
  | .rrHL => [0xCB, 0x1E]
  | .slaR8 r => [0xCB, 0b00100#5 ++ r.code]
  | .slaHL => [0xCB, 0x26]
  | .sraR8 r => [0xCB, 0b00101#5 ++ r.code]
  | .sraHL => [0xCB, 0x2E]
  | .swapR8 r => [0xCB, 0b00110#5 ++ r.code]
  | .swapHL => [0xCB, 0x36]
  | .srlR8 r => [0xCB, 0b00111#5 ++ r.code]
  | .srlHL => [0xCB, 0x3E]
  | .bitR8 u r => [0xCB, 0b01#2 ++ u ++ r.code]
  | .bitHL u => [0xCB, 0b01#2 ++ u ++ 0b110#3]
  | .resR8 u r => [0xCB, 0b10#2 ++ u ++ r.code]
  | .resHL u => [0xCB, 0b10#2 ++ u ++ 0b110#3]
  | .setR8 u r => [0xCB, 0b11#2 ++ u ++ r.code]
  | .setHL u => [0xCB, 0b11#2 ++ u ++ 0b110#3]
  | .jpN16 n => 0xC3 :: le16 n
  | .jpCcN16 cc n => (0b110#3 ++ cc.code ++ 0b010#3) :: le16 n
  | .jpHL => [0xE9]
  | .jrE8 e => [0x18, e]
  | .jrCcE8 cc e => [0b001#3 ++ cc.code ++ 0b000#3, e]
  | .callN16 n => 0xCD :: le16 n
  | .callCcN16 cc n => (0b110#3 ++ cc.code ++ 0b100#3) :: le16 n
  | .rstU3 u => [0b11#2 ++ u ++ 0b111#3]
  | .ret => [0xC9]
  | .retCc cc => [0b110#3 ++ cc.code ++ 0b000#3]
  | .reti => [0xD9]
  | .nop => [0x00]
  | .di => [0xF3]
  | .ei => [0xFB]
  | .halt => [0x76]
  | .stop => [0x10, 0x00]
  | .prefixCB b => [0xCB, b]
  | .unmapped b => [b]

end Sys2Proof
end

