-- ==== Sys2Proof/Config.lean ====
section
/-! DEFINITION. What the platform around the CORE fixes, and the one free value of the model: the answer of a device
on the bus (R61, 92_eei_decisions.md D21). -/

namespace Sys2Proof

/-- One bus transaction of the CORE: 8 bits each (R61, R62, R73). The byte of a read is the one the bus answered. -/
inductive BusEvent where
  | read (addr : Word) (value : Byte)
  | write (addr : Word) (value : Byte)
deriving DecidableEq, Repr

/-- The oracle `busRead` of D21 (`OPEN`): the byte a device answers to a read of `addr` at tick `cycle`, after the bus
transactions `history` (newest first). A FREE VALUE: no body, so nothing can be proved of the byte but that it is one
(R61 "The result is always an 8-bit value"; R75: two reads of one address may differ, since the history differs). -/
opaque Config.busRead (cycle : Nat) (history : List BusEvent) (addr : Word) : Byte

/-- The cycles an interrupt entry adds to sched (R408, "5 cycles"). -/
def Config.interruptLatency : Nat := 5

/-- What a bus read returns when no component claims the address (R61). -/
def Config.unclaimedByte : Byte := 0xFF

end Sys2Proof
end

