-- ==== Sys2Proof/Machine/State.lean ====
section
/-! DEFINITION. The state of the CORE (R20-R36) and of the environment behind its bus (R61, R418), as plain data; the
fault record's reasons; reset. -/

namespace Sys2Proof.Machine

/-- The eight 8-bit registers (R20); the flags are bits 7-4 of `f` (R21). -/
structure RegFile where
  a : Byte
  f : Byte
  b : Byte
  c : Byte
  d : Byte
  e : Byte
  h : Byte
  l : Byte
deriving DecidableEq, Repr

/-- Bytes by bus address, in the canonical form of `Memory.wf`; an unlisted address holds `unlisted`. -/
abbrev Memory := List Host.Cell

/-- What an address not listed in memory holds: 0x00, for HRAM at reset (R36) and for a byte of the flat RAM never written
(92_eei_decisions.md D21; log 3). -/
def unlisted : Byte := 0x00

/-- The reason, address and byte of a fault record (R34). Raised by an instruction into `State.fault`, as a NEXT state
in which the CORE has stopped for good (R416); no meaning and no step answers `Outcome.fault` (log 8). -/
inductive Fault where
  /-- Recorded by the meaning of `unmapped`: an opcode byte with no descriptor was dispatched (R413). Safe: the record is
  the spec's own, and a claim about a run without faults excludes it. -/
  | unmappedOpcode (addr : Word) (byte : Byte)
  /-- Recorded by the meaning of `stop` (R384, R414). Safe, for the same reason. -/
  | stopUnimplemented (addr : Word) (byte : Byte)
deriving DecidableEq, Repr

/-- Why a step has no meaning. -/
inductive Refusal where
  /-- Answered only by an arm of `exec` whose instruction has no meaning yet. Safe: nothing is claimed of it. No arm of
  this model answers it. -/
  | notModelled (mnemonic : String)
deriving DecidableEq, Repr

/-- What a component on the bus is (R61): plain RAM (R77, D21's instance), or a device, whose reads the oracle of D21
answers. -/
inductive ComponentKind where
  | ram | device
deriving DecidableEq, Repr

/-- A component attached to the bus: it claims the addresses `lo` to `hi` (R61). -/
structure Component where
  lo : Word
  hi : Word
  kind : ComponentKind
deriving DecidableEq, Repr

/-- The bus outside the CORE: the components in the order they are asked (R61), and whether the CORE is asked before
them at its own addresses (R64, D15 CORE_CLAIMS_FIRST). Fixed for a run: no step writes it. -/
structure Platform where
  components : List Component
  coreClaimsFirst : Bool
deriving DecidableEq, Repr

/-- D21's default instance, flat RAM at every address, with D15's default (log 2, log 4). -/
def Platform.flatRam : Platform :=
  { components := [{ lo := 0x0000, hi := 0xFFFF, kind := .ram }], coreClaimsFirst := true }

/-- One write of the environment, made before the tick with cycle value `cycle` (R418, D19). -/
structure EnvWrite where
  cycle : Nat
  addr : Word
  value : Byte
deriving DecidableEq, Repr

/-- The machine. The fields down to `fault` are the CORE's (R35), `mem` holding HRAM and, at the addresses that are not the
CORE's, the platform's RAM; the rest is the environment's and the host's (log 2, 5, 6, 7). -/
structure State where
  /-- the register file (R20) -/
  regs : RegFile
  /-- stack pointer (R25) -/
  sp : Word
  /-- program counter (R26) -/
  pc : Word
  /-- global interrupt enable (R28) -/
  ime : Bool
  /-- IE, the interrupt-enable latch at 0xFFFF (R29) -/
  ie : Byte
  /-- IF, the interrupt-pending latch at 0xFF0F (R30) -/
  iflag : Byte
  /-- HRAM at 0xFF80-0xFFFE (R31); RAM of the platform elsewhere (R77) -/
  mem : Memory
  /-- the next non-idle cycle; `none` is INF (R32, D31) -/
  sched : Option Nat
  /-- the fault record (R34) -/
  fault : Option Fault
  /-- the cycle value of the next tick (R426, R451) -/
  cycle : Nat
  /-- the environment's writes still to come, in order (R418) -/
  env : List EnvWrite
  /-- the bus outside the CORE (R61, R64) -/
  platform : Platform
  /-- the CORE's bus transactions so far, newest first (R62, R426) -/
  bus : List BusEvent
deriving DecidableEq, Repr

/-- The machine after construction: R36 for the CORE (its values are the spec's decision D5, log 1), the first tick at
cycle 0 (R451), flat RAM with nothing in it, no environment write, no bus transaction yet. -/
def State.reset : State where
  regs := { a := 0x00, f := 0x00, b := 0x00, c := 0x00, d := 0x00, e := 0x00, h := 0x00, l := 0x00 }
  sp := 0x0000
  pc := 0x0000
  ime := false
  ie := 0x00
  iflag := 0x00
  mem := []
  sched := some 0
  fault := none
  cycle := 0
  env := []
  platform := Platform.flatRam
  bus := []

end Sys2Proof.Machine
end

