-- ==== Sys2Proof/Machine/Ops.lean ====
section
/-! DEFINITION. The shared operations over registers, memory, bus and stack (10_state.md, 20_memory.md), the end of an
instruction (R410-R412), raising a fault, interrupt entry and return (R404-R408, R419). -/

namespace Sys2Proof

/-! ### Operands that name registers -/

/-- The register an r8 operand is (R106). -/
def R8.toReg : R8 → Reg
  | .b => .b
  | .c => .c
  | .d => .d
  | .e => .e
  | .h => .h
  | .l => .l
  | .a => .a

/-- The high register of a pair (R22). -/
def Pair.hi : Pair → Reg
  | .bc => .b
  | .de => .d
  | .hl => .h
  | .af => .a

/-- The low register of a pair (R22). -/
def Pair.lo : Pair → Reg
  | .bc => .c
  | .de => .e
  | .hl => .l
  | .af => .f

/-- What the low byte of a pair keeps: all of it, but only bits 7:4 for AF (R23, R24). -/
def Pair.loMask : Pair → Byte
  | .af => 0xF0
  | _ => 0xFF

end Sys2Proof

namespace Sys2Proof.Machine

/-- What a meaning answers. -/
abbrev Result := Host.Outcome State Fault Refusal

/-! ### Bytes of a 16-bit value -/

/-- Bits 15:8. -/
def hiByte (v : Word) : Byte := v.extractLsb' 8 8

/-- Bits 7:0. -/
def loByte (v : Word) : Byte := v.extractLsb' 0 8

/-- `hi ++ lo` of R9. -/
def joinBytes (hi lo : Byte) : Word := hi ++ lo

/-! ### Register file (R20, R23, R24, R27) -/

/-- The register file's `get` (R20). -/
def RegFile.get (rf : RegFile) : Reg → Byte
  | .a => rf.a
  | .f => rf.f
  | .b => rf.b
  | .c => rf.c
  | .d => rf.d
  | .e => rf.e
  | .h => rf.h
  | .l => rf.l

/-- The register file's `set` (R20). -/
def RegFile.set (rf : RegFile) (r : Reg) (v : Byte) : RegFile :=
  match r with
  | .a => { rf with a := v }
  | .f => { rf with f := v }
  | .b => { rf with b := v }
  | .c => { rf with c := v }
  | .d => { rf with d := v }
  | .e => { rf with e := v }
  | .h => { rf with h := v }
  | .l => { rf with l := v }

/-- `r[X]` of R9. -/
def State.reg (s : State) (r : Reg) : Byte := s.regs.get r

/-- `r[X] <- v` of R9. -/
def State.setReg (s : State) (r : Reg) (v : Byte) : State := { s with regs := s.regs.set r v }

/-- `pair(P)` (R23). -/
def State.pair (s : State) (p : Pair) : Word := joinBytes (s.reg p.hi) (s.reg p.lo &&& p.loMask)

/-- `setPair(P, v)` (R24). -/
def State.setPair (s : State) (p : Pair) (v : Word) : State :=
  (s.setReg p.hi (hiByte v)).setReg p.lo (loByte v &&& p.loMask)

/-- `pairSP(P)`: SP where the pair's code is AF's (R27). -/
def State.pairSP (s : State) (p : Pair) : Word :=
  match p with
  | .af => s.sp
  | p => s.pair p

/-- `setPairSP(P, v)` (R27). -/
def State.setPairSP (s : State) (p : Pair) (v : Word) : State :=
  match p with
  | .af => { s with sp := v }
  | p => s.setPair p v

/-! ### Memory in canonical form -/

/-- The byte at key `k`. -/
def Memory.read (m : Memory) (k : Nat) : Byte :=
  match m with
  | [] => unlisted
  | (a, v) :: rest => if a = k then v else Memory.read rest k

/-- Write `v` at key `k`, keeping the keys rising and no entry equal to `unlisted`. -/
def Memory.write (m : Memory) (k : Nat) (v : Byte) : Memory :=
  match m with
  | [] => if v = unlisted then [] else [(k, v)]
  | (a, w) :: rest =>
    if k < a then (if v = unlisted then (a, w) :: rest else (k, v) :: (a, w) :: rest)
    else if k = a then (if v = unlisted then rest else (k, v) :: rest)
    else (a, w) :: Memory.write rest k v

/-- The canonical form from key `lo` on: keys at least `lo`, strictly rising, below 65,536 (R60), no entry `unlisted`. -/
def Memory.wfFrom (lo : Nat) (m : Memory) : Bool :=
  match m with
  | [] => true
  | (a, v) :: rest => decide (lo ≤ a) && decide (a < 65536) && v != unlisted && Memory.wfFrom (a + 1) rest

/-- The canonical form. -/
def Memory.wf (m : Memory) : Bool := Memory.wfFrom 0 m

/-! ### The bus (R61-R65) -/

/-- IE's address (R29, R63). -/
def ieAddr : Word := 0xFFFF

/-- IF's address (R30, R63). -/
def ifAddr : Word := 0xFF0F

/-- An address of HRAM (R31, R63). -/
def inHram (a : Word) : Bool := decide (0xFF80 ≤ a.toNat) && decide (a.toNat ≤ 0xFFFE)

/-- An address the CORE claims (R63). -/
def coreClaims (a : Word) : Bool := a == ieAddr || a == ifAddr || inHram a

/-- HRAM[k] (R31). -/
def State.hram (s : State) (k : Fin 127) : Byte := s.mem.read (0xFF80 + k.val)

/-- Whether a component claims an address. -/
def Component.covers (c : Component) (a : Word) : Bool := decide (c.lo.toNat ≤ a.toNat) && decide (a.toNat ≤ c.hi.toNat)

/-- The first component, in the order asked, that claims an address (R61). -/
def Platform.claimant (p : Platform) (a : Word) : Option ComponentKind :=
  (p.components.find? fun c => c.covers a).map Component.kind

/-- Whether some RAM takes a write at an address: a write is delivered to every component (R62). -/
def Platform.ramAt (p : Platform) (a : Word) : Bool :=
  p.components.any fun c => c.covers a && c.kind == .ram

/-- The byte held at an address: the latch, HRAM or RAM there. No transaction. This is also what a read of the CORE's
regions by another component returns (R65). -/
def State.stored (s : State) (a : Word) : Byte :=
  if a = ieAddr then s.ie else if a = ifAddr then s.iflag else s.mem.read a.toNat

/-- The oracle's answer to a read at this point of the run (D21, R75). -/
def State.oracle (s : State) (a : Word) : Byte := Config.busRead s.cycle s.bus a

/-- The byte the bus answers to a read by the CORE (R61, R64): the CORE's own element at its addresses, unless another
component is asked first there (D15); else what the first claiming component gives; 0xFF when none claims. -/
def State.answer (s : State) (a : Word) : Byte :=
  if coreClaims a then
    if s.platform.coreClaimsFirst then s.stored a else s.oracle a
  else
    match s.platform.claimant a with
    | some .ram => s.mem.read a.toNat
    | some .device => s.oracle a
    | none => Config.unclaimedByte

/-- Whether a written byte is held by the CORE or by RAM (R62, R65). -/
def State.holds (s : State) (a : Word) : Bool := coreClaims a || s.platform.ramAt a

/-- The effect of a bus write on what is held, whoever writes (R62, R65): all 8 bits into the CORE's element at its
addresses; into RAM where there is some; nothing elsewhere. -/
def State.store (s : State) (a : Word) (v : Byte) : State :=
  if a = ieAddr then { s with ie := v }
  else if a = ifAddr then { s with iflag := v }
  else if inHram a || s.platform.ramAt a then { s with mem := s.mem.write a.toNat v }
  else s

/-- `MemRead(a, 1)`: one bus read transaction of the CORE (R61). -/
def State.memRead (s : State) (a : Word) : Byte × State :=
  (s.answer a, { s with bus := .read a (s.answer a) :: s.bus })

/-- `MemWrite(a, 1, v)`: one bus write transaction of the CORE (R62). -/
def State.memWrite (s : State) (a : Word) (v : Byte) : State :=
  let t := s.store a v
  { t with bus := .write a v :: t.bus }

/-- `MemRead(a, 2)`: the low byte first, then the high byte at a + 1 modulo 2^16 (R67). -/
def State.memRead16 (s : State) (a : Word) : Word × State :=
  let lo := s.memRead a
  let hi := lo.2.memRead (a + 1)
  (joinBytes hi.1 lo.1, hi.2)

/-- `MemWrite(a, 2, v)`: the low byte first, then the high byte at a + 1 modulo 2^16 (R68). -/
def State.memWrite16 (s : State) (a : Word) (v : Word) : State :=
  (s.memWrite a (loByte v)).memWrite (a + 1) (hiByte v)

/-- `Push16(v)` (R69). -/
def State.push16 (s : State) (v : Word) : State :=
  let t : State := { s with sp := s.sp - 2 }
  t.memWrite16 t.sp v

/-- `Pop16()` (R70). -/
def State.pop16 (s : State) : Word × State :=
  let r := s.memRead16 s.sp
  (r.1, { r.2 with sp := r.2.sp + 2 })

/-! ### The end of an instruction (R410, R411) -/

/-- `nextPC` as an instruction's rule finds it: PC + length (R410). PC holds the instruction's own address throughout. -/
def State.nextPC (s : State) (i : Instr) : Word := s.pc + BitVec.ofNat 16 i.length

/-- PC <- `target`; sched advances by the base cost, and by the extra cost if the condition was true (R410, R411). -/
def State.complete (s : State) (i : Instr) (target : Word) (taken : Bool) : State :=
  { s with
    pc := target
    sched := s.sched.map fun n => n + (i.cycles + if taken then i.extraCycles else 0) }

/-- The end of every instruction that does not transfer control (R410). -/
def State.retire (s : State) (i : Instr) : State := s.complete i (s.nextPC i) false

/-! ### Faults (R34, R413, R414) -/

/-- `raise Fault(...)` inside an instruction: only the record changes (R9, R416). -/
def State.raise (s : State) (f : Fault) : State := { s with fault := some f }

/-! ### Interrupts (R402-R408) -/

/-- The five sources, bit 0 first (R29, R406). -/
inductive Source where
  | vblank | lcdStat | timer | serial | joypad
deriving DecidableEq, Repr

/-- The bit of IE and IF a source has (R406). -/
def Source.bit : Source → Nat
  | .vblank => 0
  | .lcdStat => 1
  | .timer => 2
  | .serial => 3
  | .joypad => 4

/-- The service address 0x0040 + 8 i (R406). -/
def Source.vector (i : Source) : Word := 0x0040 + BitVec.ofNat 16 (8 * i.bit)

/-- `IE & IF & 0x1F` (R404). -/
def State.pending (s : State) : Byte := s.ie &&& s.iflag &&& 0x1F

/-- The source of the lowest set bit (R405). -/
def lowestSource (p : Byte) : Option Source :=
  [Source.vblank, .lcdStat, .timer, .serial, .joypad].find? fun i => p.getLsbD i.bit

/-- The source a dispatch tick services, if any (R405). -/
def State.accepted (s : State) : Option Source := if s.ime then lowestSource s.pending else none

/-- TAKING AN INTERRUPT (R407, R408), in the order of R407: IME, the IF bit, the push of PC, PC; then sched + 5. Nothing
else is saved. -/
def State.enterInterrupt (s : State) (i : Source) : State :=
  let s1 : State := { s with ime := false, iflag := s.iflag &&& ~~~(1#8 <<< i.bit) }
  let s2 := s1.push16 s1.pc
  { s2 with
    pc := i.vector
    sched := s2.sched.map fun n => n + Config.interruptLatency }

/-- The return of RETI (R371, R419): IME <- 1, then the popped address; nothing else is restored. -/
def State.returnFromInterrupt (s : State) : Word × State :=
  State.pop16 { s with ime := true }

end Sys2Proof.Machine
end

