-- ==== Sys2Proof/Machine/Flags.lean ====
section
/-! DEFINITION. The ALU with its flag computation (40_alu.md R140-R159): pure functions that return a value and four
flags, and the flag-combination step that writes F. -/

namespace Sys2Proof.Machine

/-- The flag part of an ALU record (R140). -/
structure Flags where
  z : Bool
  n : Bool
  h : Bool
  c : Bool
deriving DecidableEq, Repr

/-- The record of an 8-bit ALU function (R140). -/
structure Alu8 where
  v : Byte
  flags : Flags
deriving DecidableEq, Repr

/-- The record of a 16-bit ALU function (R140). -/
structure Alu16 where
  v : Word
  flags : Flags
deriving DecidableEq, Repr

/-- The flag byte: Z bit 7, N bit 6, H bit 5, C bit 4, bits 3:0 zero (R141). -/
def flagByte (z n h c : Bool) : Byte :=
  BitVec.ofBool z ++ BitVec.ofBool n ++ BitVec.ofBool h ++ BitVec.ofBool c ++ 0b0000#4

/-- The packed integer form (R142): the value, widened to 24 bits, above the flag byte. -/
def packRecord (v : BitVec 24) (f : Flags) : BitVec 24 := (v <<< 8) ||| (flagByte f.z f.n f.h f.c).setWidth 24

/-- The packed form of an 8-bit record (R142). -/
def Alu8.pack (r : Alu8) : BitVec 24 := packRecord (r.v.setWidth 24) r.flags

/-- The packed form of a 16-bit record (R142). -/
def Alu16.pack (r : Alu16) : BitVec 24 := packRecord (r.v.setWidth 24) r.flags

/-- The value of a packed record, `packed >> 8`: the 16 bits above the flag byte (R142). -/
def unpackValue (p : BitVec 24) : Word := p.extractLsb' 8 16

/-- The flag byte of a packed record (R142). -/
def unpackFlags (p : BitVec 24) : Byte := p.extractLsb' 0 8

/-! ### Arithmetic (R144-R148) -/

/-- Bits 3:0 of a byte as a number. -/
def lowNibble (v : Byte) : Nat := v.toNat % 16

/-- R144. -/
def add8 (l r : Byte) (c0 : Bool) : Alu8 :=
  let sum := l.toNat + r.toNat + c0.toNat
  let v : Byte := BitVec.ofNat 8 sum
  { v := v
    flags :=
      { z := v == 0
        n := false
        h := decide (lowNibble l + lowNibble r + c0.toNat > 0xF)
        c := decide (sum > 0xFF) } }

/-- R145: flags from the low byte. -/
def add16L (l r : Word) : Alu16 where
  v := l + r
  flags :=
    { z := false
      n := false
      h := decide (l.toNat % 16 + r.toNat % 16 > 0xF)
      c := decide (l.toNat % 256 + r.toNat % 256 > 0xFF) }

/-- R146: flags from bits 11 and 15. -/
def add16H (l r : Word) : Alu16 where
  v := l + r
  flags :=
    { z := false
      n := false
      h := decide (l.toNat % 4096 + r.toNat % 4096 > 0xFFF)
      c := decide (l.toNat + r.toNat > 0xFFFF) }

/-- R147. -/
def sub8 (l r : Byte) (b0 : Bool) : Alu8 :=
  let v : Byte := BitVec.ofInt 8 ((l.toNat : Int) - r.toNat - b0.toNat)
  { v := v
    flags :=
      { z := v == 0
        n := true
        h := decide (lowNibble l < lowNibble r + b0.toNat)
        c := decide (l.toNat < r.toNat + b0.toNat) } }

/-- R148: decimal adjustment of `v` under the prior N, H and C. -/
def bcdAdjust (v : Byte) (n h c : Bool) : Alu8 :=
  let fixL := h || (!n && decide (lowNibble v > 9))
  let fixH := c || (!n && decide (v.toNat > 0x99))
  let adj : Byte := (if fixH then 0x60 else 0x00) + (if fixL then 0x06 else 0x00)
  let va : Byte := if n then v - adj else v + adj
  { v := va, flags := { z := va == 0, n := n, h := false, c := fixH } }

/-! ### Logic (R149-R151) -/

/-- R149. -/
def and8 (l r : Byte) : Alu8 where
  v := l &&& r
  flags := { z := (l &&& r) == 0, n := false, h := true, c := false }

/-- R150. -/
def or8 (l r : Byte) : Alu8 where
  v := l ||| r
  flags := { z := (l ||| r) == 0, n := false, h := false, c := false }

/-- R151. -/
def xor8 (l r : Byte) : Alu8 where
  v := l ^^^ r
  flags := { z := (l ^^^ r) == 0, n := false, h := false, c := false }

/-! ### Shifts, rotates, swap, bit test (R152-R158) -/

/-- The direction of a rotate (R155, R156). -/
inductive Dir where
  | left | right
deriving DecidableEq, Repr

/-- A record whose Z is "result is 0", with N = H = 0 and the given C: the shape of every rotate, shift and swap. -/
def shiftRecord (v : Byte) (c : Bool) : Alu8 where
  v := v
  flags := { z := v == 0, n := false, h := false, c := c }

/-- R152. -/
def shiftLeft (v : Byte) : Alu8 := shiftRecord (v <<< 1) (v.getLsbD 7)

/-- R153: bit 7 is kept. -/
def shiftRightA (v : Byte) : Alu8 := shiftRecord (v.extractLsb' 7 1 ++ v.extractLsb' 1 7) (v.getLsbD 0)

/-- R154. -/
def shiftRightL (v : Byte) : Alu8 := shiftRecord (0#1 ++ v.extractLsb' 1 7) (v.getLsbD 0)

/-- R155: the carry flag takes no part. -/
def rotate (dir : Dir) (v : Byte) : Alu8 :=
  match dir with
  | .left => shiftRecord (v.extractLsb' 0 7 ++ v.extractLsb' 7 1) (v.getLsbD 7)
  | .right => shiftRecord (v.extractLsb' 0 1 ++ v.extractLsb' 1 7) (v.getLsbD 0)

/-- R156: the carry flag is a ninth bit. -/
def rotateCarry (dir : Dir) (v : Byte) (c0 : Bool) : Alu8 :=
  match dir with
  | .left => shiftRecord (v.extractLsb' 0 7 ++ BitVec.ofBool c0) (v.getLsbD 7)
  | .right => shiftRecord (BitVec.ofBool c0 ++ v.extractLsb' 1 7) (v.getLsbD 0)

/-- R157. -/
def swapNibbles (v : Byte) : Alu8 := shiftRecord (v.extractLsb' 0 4 ++ v.extractLsb' 4 4) false

/-- R37: bit `i` of a byte. -/
def testBit (v : Byte) (i : Nat) : Bool := v.getLsbD i

/-- R37: a byte with bit `i` set or cleared, the other seven unchanged. -/
def setBit (v : Byte) (i : Nat) (on : Bool) : Byte :=
  if on then v ||| (1#8 <<< i) else v &&& ~~~(1#8 <<< i)

/-- R158: the value is 0 and Z the inverse of the tested bit; no instruction uses the record's C. -/
def bitTest (v : Byte) (u : BitVec 3) : Alu8 where
  v := 0
  flags := { z := !testBit v u.toNat, n := false, h := true, c := false }

/-! ### The flags of F and the flag-combination step (R21, R159) -/

/-- Bit 7 of F (R21). -/
def State.flagZ (s : State) : Bool := testBit (s.reg .f) 7

/-- Bit 6 of F (R21). -/
def State.flagN (s : State) : Bool := testBit (s.reg .f) 6

/-- Bit 5 of F (R21). -/
def State.flagH (s : State) : Bool := testBit (s.reg .f) 5

/-- Bit 4 of F (R21). -/
def State.flagC (s : State) : Bool := testBit (s.reg .f) 4

/-- Where a flag's new value comes from (R159). -/
inductive FlagSource where
  | v0 | v1 | alu | cpu
deriving DecidableEq, Repr

/-- The new value of one flag: from the ALU record's bit or the flag's own previous value (R159). -/
def FlagSource.pick (src : FlagSource) (aluBit old : Bool) : Bool :=
  match src with
  | .v0 => false
  | .v1 => true
  | .alu => aluBit
  | .cpu => old

/-- The four sources of an instruction, in the order Z N H C of the rules (R159). -/
structure FlagSources where
  z : FlagSource
  n : FlagSource
  h : FlagSource
  c : FlagSource
deriving DecidableEq, Repr

/-- Every flag from the ALU record. -/
def FlagSources.fromAlu : FlagSources := { z := .alu, n := .alu, h := .alu, c := .alu }

/-- R159: all four new values are taken from F as it was before. -/
def State.writeFlags (s : State) (src : FlagSources) (alu : Flags) : State :=
  s.setReg .f
    (flagByte (src.z.pick alu.z s.flagZ) (src.n.pick alu.n s.flagN) (src.h.pick alu.h s.flagH)
      (src.c.pick alu.c s.flagC))

end Sys2Proof.Machine
end

