-- ==== Sys2Proof/Machine/Operands.lean ====
section
/-! DEFINITION. The operand forms the instruction rules share: r8 registers, the HL-pointed byte, read-modify-write,
the 0xFF00 window, the signed byte, and condition evaluation. -/

namespace Sys2Proof.Machine

/-- `r[d]` for an r8 code (R106). -/
def State.r8 (s : State) (r : R8) : Byte := s.reg r.toReg

/-- `r[d] <- v` for an r8 code (R106). -/
def State.setR8 (s : State) (r : R8) (v : Byte) : State := s.setReg r.toReg v

/-- `pair(HL)`, the address of the HL-pointed byte (R106). -/
def State.hlAddr (s : State) : Word := s.pair .hl

/-- `MemRead(pair(HL), 1)`. -/
def State.readHL (s : State) : Byte × State := s.memRead s.hlAddr

/-- An address of the 0xFF00 window (R110, R211-R214). -/
def highAddr (n : Byte) : Word := 0xFF00 + n.setWidth 16

/-- `sext_16(e8)` (R111). -/
def sext16 (e : Byte) : Word := e.signExtend 16

/-- `cond(cc)` (R360). -/
def State.cond (s : State) : Cond → Bool
  | .nz => !s.flagZ
  | .z => s.flagZ
  | .nc => !s.flagC
  | .c => s.flagC

/-- `r[A] <- alu.v; writeFlags(ALU, ALU, ALU, ALU, alu)`: the end of every 8-bit ALU operation on A (R240-R251,
R280-R288). -/
def State.setAccumulator (s : State) (alu : Alu8) : State := (s.setReg .a alu.v).writeFlags .fromAlu alu.flags

/-- Compute on a register and write it back with its flags (R255, R257, R304-R307, R312-R314, R318). -/
def State.updateR8 (s : State) (r : R8) (alu : Alu8) (src : FlagSources) : State :=
  (s.setR8 r alu.v).writeFlags src alu.flags

/-- Write a computed value back to the HL-pointed byte just read, then the flags (R256, R258, R308-R311, R315-R317,
R319); HL is unchanged. -/
def State.updateHL (s : State) (alu : Alu8) (src : FlagSources) : State :=
  (s.memWrite s.hlAddr alu.v).writeFlags src alu.flags

/-- The flag sources of INC r8 and INC [HL] (R255): Z ALU, N V0, H ALU, C CPU. -/
def incSources : FlagSources := { z := .alu, n := .v0, h := .alu, c := .cpu }

/-- The flag sources of DEC r8 and DEC [HL] (R257): Z ALU, N V1, H ALU, C CPU. -/
def decSources : FlagSources := { z := .alu, n := .v1, h := .alu, c := .cpu }

/-- The flag sources of ADD HL,r16 (R261): Z CPU, N V0, H ALU, C ALU. -/
def addHLSources : FlagSources := { z := .cpu, n := .v0, h := .alu, c := .alu }

/-- The flag sources of ADD SP,e8 and LD HL,SP+e8 (R262, R263): Z V0, N V0, H ALU, C ALU. -/
def addSPSources : FlagSources := { z := .v0, n := .v0, h := .alu, c := .alu }

/-- The flag sources of RLCA, RRCA, RLA and RRA (R300-R303): Z V0, N V0, H V0, C ALU. -/
def rotASources : FlagSources := { z := .v0, n := .v0, h := .v0, c := .alu }

/-- The flag sources of BIT (R340): Z ALU, N V0, H V1, C CPU. -/
def bitSources : FlagSources := { z := .alu, n := .v0, h := .v1, c := .cpu }

/-- The flag sources of DAA (R290): Z ALU, N CPU, H V0, C ALU. -/
def daaSources : FlagSources := { z := .alu, n := .cpu, h := .v0, c := .alu }

/-- The flag sources of CPL (R289): Z CPU, N V1, H V1, C CPU. -/
def cplSources : FlagSources := { z := .cpu, n := .v1, h := .v1, c := .cpu }

/-- The flag sources of SCF (R291): Z CPU, N V0, H V0, C V1. -/
def scfSources : FlagSources := { z := .cpu, n := .v0, h := .v0, c := .v1 }

/-- The flag sources of CCF (R292): Z CPU, N V0, H V0, C from a record whose c is the complement of C. -/
def ccfSources : FlagSources := { z := .cpu, n := .v0, h := .v0, c := .alu }

end Sys2Proof.Machine
end

