-- ==== Sys2Proof/Machine/Arith.lean ====
section
/-! DEFINITION. Arithmetic (42_arith.md): one meaning per rule R240-R263. Every operand and flag is read before any write
(R159, R455). -/

namespace Sys2Proof.Machine

/-- ADD A,r8 (R240). -/
def execAddR8 (r : R8) (s : State) : Result :=
  .next ((s.setAccumulator (add8 (s.reg .a) (s.r8 r) false)).retire (.addR8 r))

/-- ADD A,n8 (R242). -/
def execAddN8 (n : Byte) (s : State) : Result :=
  .next ((s.setAccumulator (add8 (s.reg .a) n false)).retire (.addN8 n))

/-- ADD A,[HL] (R244). -/
def execAddHL (s : State) : Result :=
  .next ((s.readHL.2.setAccumulator (add8 (s.reg .a) s.readHL.1 false)).retire .addHL)

/-- ADC A,r8 (R241). -/
def execAdcR8 (r : R8) (s : State) : Result :=
  .next ((s.setAccumulator (add8 (s.reg .a) (s.r8 r) s.flagC)).retire (.adcR8 r))

/-- ADC A,n8 (R243). -/
def execAdcN8 (n : Byte) (s : State) : Result :=
  .next ((s.setAccumulator (add8 (s.reg .a) n s.flagC)).retire (.adcN8 n))

/-- ADC A,[HL] (R245). -/
def execAdcHL (s : State) : Result :=
  .next ((s.readHL.2.setAccumulator (add8 (s.reg .a) s.readHL.1 s.flagC)).retire .adcHL)

/-- SUB A,r8 (R246). -/
def execSubR8 (r : R8) (s : State) : Result :=
  .next ((s.setAccumulator (sub8 (s.reg .a) (s.r8 r) false)).retire (.subR8 r))

/-- SUB A,n8 (R248). -/
def execSubN8 (n : Byte) (s : State) : Result :=
  .next ((s.setAccumulator (sub8 (s.reg .a) n false)).retire (.subN8 n))

/-- SUB A,[HL] (R250). -/
def execSubHL (s : State) : Result :=
  .next ((s.readHL.2.setAccumulator (sub8 (s.reg .a) s.readHL.1 false)).retire .subHL)

/-- SBC A,r8 (R247). -/
def execSbcR8 (r : R8) (s : State) : Result :=
  .next ((s.setAccumulator (sub8 (s.reg .a) (s.r8 r) s.flagC)).retire (.sbcR8 r))

/-- SBC A,n8 (R249). -/
def execSbcN8 (n : Byte) (s : State) : Result :=
  .next ((s.setAccumulator (sub8 (s.reg .a) n s.flagC)).retire (.sbcN8 n))

/-- SBC A,[HL] (R251). -/
def execSbcHL (s : State) : Result :=
  .next ((s.readHL.2.setAccumulator (sub8 (s.reg .a) s.readHL.1 s.flagC)).retire .sbcHL)

/-- CP A,r8 (R252): A is not written. -/
def execCpR8 (r : R8) (s : State) : Result :=
  .next ((s.writeFlags .fromAlu (sub8 (s.reg .a) (s.r8 r) false).flags).retire (.cpR8 r))

/-- CP A,n8 (R253). -/
def execCpN8 (n : Byte) (s : State) : Result :=
  .next ((s.writeFlags .fromAlu (sub8 (s.reg .a) n false).flags).retire (.cpN8 n))

/-- CP A,[HL] (R254). -/
def execCpHL (s : State) : Result :=
  .next ((s.readHL.2.writeFlags .fromAlu (sub8 (s.reg .a) s.readHL.1 false).flags).retire .cpHL)

/-- INC r8 (R255). -/
def execIncR8 (rd : R8) (s : State) : Result :=
  .next ((s.updateR8 rd (add8 (s.r8 rd) 1 false) incSources).retire (.incR8 rd))

/-- INC [HL] (R256). -/
def execIncHL (s : State) : Result :=
  .next ((s.readHL.2.updateHL (add8 s.readHL.1 1 false) incSources).retire .incHL)

/-- DEC r8 (R257). -/
def execDecR8 (rd : R8) (s : State) : Result :=
  .next ((s.updateR8 rd (sub8 (s.r8 rd) 1 false) decSources).retire (.decR8 rd))

/-- DEC [HL] (R258). -/
def execDecHL (s : State) : Result :=
  .next ((s.readHL.2.updateHL (sub8 s.readHL.1 1 false) decSources).retire .decHL)

/-- INC r16 (R259): no flag; code 11 is SP. -/
def execIncR16 (p : Pair) (s : State) : Result := .next ((s.setPairSP p (s.pairSP p + 1)).retire (.incR16 p))

/-- DEC r16 (R260): no flag; code 11 is SP. -/
def execDecR16 (p : Pair) (s : State) : Result := .next ((s.setPairSP p (s.pairSP p - 1)).retire (.decR16 p))

/-- ADD HL,r16 (R261): code 11 is SP. -/
def execAddHLR16 (p : Pair) (s : State) : Result :=
  let alu := add16H (s.pair .hl) (s.pairSP p)
  .next (((s.setPair .hl alu.v).writeFlags addHLSources alu.flags).retire (.addHLR16 p))

/-- ADD SP,e8 (R262). -/
def execAddSPE8 (e : Byte) (s : State) : Result :=
  let alu := add16L s.sp (sext16 e)
  .next ((State.writeFlags { s with sp := alu.v } addSPSources alu.flags).retire (.addSPE8 e))

/-- LD HL,SP+e8 (R263): SP is not written. -/
def execLdHLSPE8 (e : Byte) (s : State) : Result :=
  let alu := add16L s.sp (sext16 e)
  .next (((s.setPair .hl alu.v).writeFlags addSPSources alu.flags).retire (.ldHLSPE8 e))

end Sys2Proof.Machine
end

