-- ==== Sys2Proof/Machine/Bit.lean ====
section
/-! DEFINITION. Single-bit instructions (45_bit.md): one meaning per rule R340-R345. RES and SET write no flag. -/

namespace Sys2Proof.Machine

/-- BIT u3,r8 (R340): the register is not written. -/
def execBitR8 (u : BitVec 3) (r : R8) (s : State) : Result :=
  .next ((s.writeFlags bitSources (bitTest (s.r8 r) u).flags).retire (.bitR8 u r))

/-- BIT u3,[HL] (R341): one read, no write. -/
def execBitHL (u : BitVec 3) (s : State) : Result :=
  .next ((s.readHL.2.writeFlags bitSources (bitTest s.readHL.1 u).flags).retire (.bitHL u))

/-- RES u3,r8 (R342). -/
def execResR8 (u : BitVec 3) (r : R8) (s : State) : Result :=
  .next ((s.setR8 r (setBit (s.r8 r) u.toNat false)).retire (.resR8 u r))

/-- RES u3,[HL] (R343): the byte is written back even when unchanged. -/
def execResHL (u : BitVec 3) (s : State) : Result :=
  .next ((s.readHL.2.memWrite s.hlAddr (setBit s.readHL.1 u.toNat false)).retire (.resHL u))

/-- SET u3,r8 (R344). -/
def execSetR8 (u : BitVec 3) (r : R8) (s : State) : Result :=
  .next ((s.setR8 r (setBit (s.r8 r) u.toNat true)).retire (.setR8 u r))

/-- SET u3,[HL] (R345). -/
def execSetHL (u : BitVec 3) (s : State) : Result :=
  .next ((s.readHL.2.memWrite s.hlAddr (setBit s.readHL.1 u.toNat true)).retire (.setHL u))

end Sys2Proof.Machine
end

