-- ==== Sys2Proof/Machine/Control.lean ====
section
/-! DEFINITION. Jumps, calls, returns and restarts (46_control.md): one meaning per rule R361-R371. No instruction here
writes a flag. A conditional form whose condition is false only retires (R360). -/

namespace Sys2Proof.Machine

/-- Push the return address, then go to `target`: the shared effect of R366-R368. -/
def State.call (s : State) (i : Instr) (target : Word) (taken : Bool) : State :=
  (s.push16 (s.nextPC i)).complete i target taken

/-- Go to the popped address: the shared effect of R369, R370. -/
def State.popToPC (s : State) (i : Instr) (taken : Bool) : State := s.pop16.2.complete i s.pop16.1 taken

/-- JP n16 (R361). -/
def execJpN16 (n : Word) (s : State) : Result := .next (s.complete (.jpN16 n) n false)

/-- JP cc,n16 (R362). -/
def execJpCcN16 (cc : Cond) (n : Word) (s : State) : Result :=
  .next (if s.cond cc then s.complete (.jpCcN16 cc n) n true else s.retire (.jpCcN16 cc n))

/-- JP HL (R363): the target is HL itself. -/
def execJpHL (s : State) : Result := .next (s.complete .jpHL (s.pair .hl) false)

/-- JR e8 (R364): relative to the next instruction. -/
def execJrE8 (e : Byte) (s : State) : Result :=
  .next (s.complete (.jrE8 e) (s.nextPC (.jrE8 e) + sext16 e) false)

/-- JR cc,e8 (R365). -/
def execJrCcE8 (cc : Cond) (e : Byte) (s : State) : Result :=
  .next
    (if s.cond cc then s.complete (.jrCcE8 cc e) (s.nextPC (.jrCcE8 cc e) + sext16 e) true
      else s.retire (.jrCcE8 cc e))

/-- CALL n16 (R366). -/
def execCallN16 (n : Word) (s : State) : Result := .next (s.call (.callN16 n) n false)

/-- CALL cc,n16 (R367). -/
def execCallCcN16 (cc : Cond) (n : Word) (s : State) : Result :=
  .next (if s.cond cc then s.call (.callCcN16 cc n) n true else s.retire (.callCcN16 cc n))

/-- RST u3 (R368): the target is 8 u3. -/
def execRstU3 (u : BitVec 3) (s : State) : Result := .next (s.call (.rstU3 u) (u.setWidth 16 * 8) false)

/-- RET (R369). -/
def execRet (s : State) : Result := .next (s.popToPC .ret false)

/-- RET cc (R370). -/
def execRetCc (cc : Cond) (s : State) : Result :=
  .next (if s.cond cc then s.popToPC (.retCc cc) true else s.retire (.retCc cc))

/-- RETI (R371). -/
def execReti (s : State) : Result :=
  .next (s.returnFromInterrupt.2.complete .reti s.returnFromInterrupt.1 false)

end Sys2Proof.Machine
end

