-- ==== Sys2Proof/Machine/LoadStore.lean ====
section
/-! DEFINITION. Loads, stores, push and pop (41_load_store.md): one meaning per rule R200-R223. No instruction here writes
a flag but POP AF, whose F is the popped low byte. -/

namespace Sys2Proof.Machine

/-- LD r8,r8 (R200). -/
def execLdR8R8 (rd r : R8) (s : State) : Result := .next ((s.setR8 rd (s.r8 r)).retire (.ldR8R8 rd r))

/-- LD r8,n8 (R201). -/
def execLdR8N8 (rd : R8) (n : Byte) (s : State) : Result := .next ((s.setR8 rd n).retire (.ldR8N8 rd n))

/-- LD r8,[HL] (R202). -/
def execLdR8HL (rd : R8) (s : State) : Result := .next ((s.readHL.2.setR8 rd s.readHL.1).retire (.ldR8HL rd))

/-- LD [HL],r8 (R203). -/
def execLdHLR8 (r : R8) (s : State) : Result := .next ((s.memWrite s.hlAddr (s.r8 r)).retire (.ldHLR8 r))

/-- LD [HL],n8 (R204). -/
def execLdHLN8 (n : Byte) (s : State) : Result := .next ((s.memWrite s.hlAddr n).retire (.ldHLN8 n))

/-- Load A from `a`: the shared effect of R205, R206, R209, R211, R213. -/
def State.loadA (s : State) (a : Word) : State := (s.memRead a).2.setReg .a (s.memRead a).1

/-- Store A to `a`: the shared effect of R207, R208, R210, R212, R214. -/
def State.storeA (s : State) (a : Word) : State := s.memWrite a (s.reg .a)

/-- LD A,[BC] (R205). -/
def execLdABC (s : State) : Result := .next ((s.loadA (s.pair .bc)).retire .ldABC)

/-- LD A,[DE] (R206). -/
def execLdADE (s : State) : Result := .next ((s.loadA (s.pair .de)).retire .ldADE)

/-- LD [BC],A (R207). -/
def execLdBCA (s : State) : Result := .next ((s.storeA (s.pair .bc)).retire .ldBCA)

/-- LD [DE],A (R208). -/
def execLdDEA (s : State) : Result := .next ((s.storeA (s.pair .de)).retire .ldDEA)

/-- LD A,[n16] (R209). -/
def execLdAN16 (n : Word) (s : State) : Result := .next ((s.loadA n).retire (.ldAN16 n))

/-- LD [n16],A (R210). -/
def execLdN16A (n : Word) (s : State) : Result := .next ((s.storeA n).retire (.ldN16A n))

/-- LDH A,[n8] (R211). -/
def execLdhAN8 (n : Byte) (s : State) : Result := .next ((s.loadA (highAddr n)).retire (.ldhAN8 n))

/-- LDH [n8],A (R212). -/
def execLdhN8A (n : Byte) (s : State) : Result := .next ((s.storeA (highAddr n)).retire (.ldhN8A n))

/-- LDH A,[C] (R213). -/
def execLdhAC (s : State) : Result := .next ((s.loadA (highAddr (s.reg .c))).retire .ldhAC)

/-- LDH [C],A (R214). -/
def execLdhCA (s : State) : Result := .next ((s.storeA (highAddr (s.reg .c))).retire .ldhCA)

/-- LD A,[HL+] (R215): HL + 1 after the read. -/
def execLdAHLI (s : State) : Result := .next (((s.loadA s.hlAddr).setPair .hl (s.hlAddr + 1)).retire .ldAHLI)

/-- LD A,[HL-] (R216): HL - 1 after the read. -/
def execLdAHLD (s : State) : Result := .next (((s.loadA s.hlAddr).setPair .hl (s.hlAddr - 1)).retire .ldAHLD)

/-- LD [HL+],A (R217). -/
def execLdHLIA (s : State) : Result := .next (((s.storeA s.hlAddr).setPair .hl (s.hlAddr + 1)).retire .ldHLIA)

/-- LD [HL-],A (R218). -/
def execLdHLDA (s : State) : Result := .next (((s.storeA s.hlAddr).setPair .hl (s.hlAddr - 1)).retire .ldHLDA)

/-- LD r16,n16 (R219): code 11 is SP. -/
def execLdR16N16 (p : Pair) (n : Word) (s : State) : Result := .next ((s.setPairSP p n).retire (.ldR16N16 p n))

/-- LD [n16],SP (R220). -/
def execLdN16SP (n : Word) (s : State) : Result := .next ((s.memWrite16 n s.sp).retire (.ldN16SP n))

/-- LD SP,HL (R221). -/
def execLdSPHL (s : State) : Result := .next (State.retire { s with sp := s.pair .hl } .ldSPHL)

/-- PUSH r16 (R222): code 11 is AF. -/
def execPushR16 (p : Pair) (s : State) : Result := .next ((s.push16 (s.pair p)).retire (.pushR16 p))

/-- POP r16 (R223): code 11 is AF, and F takes bits 7:4 of the popped low byte. -/
def execPopR16 (p : Pair) (s : State) : Result := .next ((s.pop16.2.setPair p s.pop16.1).retire (.popR16 p))

end Sys2Proof.Machine
end

