-- ==== Sys2Proof/Machine/Logic.lean ====
section
/-! DEFINITION. Logic, complement, decimal adjust and carry flag (43_logic.md): one meaning per rule R280-R292. -/

namespace Sys2Proof.Machine

/-- AND A,r8 (R280). -/
def execAndR8 (r : R8) (s : State) : Result :=
  .next ((s.setAccumulator (and8 (s.reg .a) (s.r8 r))).retire (.andR8 r))

/-- AND A,n8 (R281). -/
def execAndN8 (n : Byte) (s : State) : Result :=
  .next ((s.setAccumulator (and8 (s.reg .a) n)).retire (.andN8 n))

/-- AND A,[HL] (R282). -/
def execAndHL (s : State) : Result :=
  .next ((s.readHL.2.setAccumulator (and8 (s.reg .a) s.readHL.1)).retire .andHL)

/-- OR A,r8 (R283). -/
def execOrR8 (r : R8) (s : State) : Result :=
  .next ((s.setAccumulator (or8 (s.reg .a) (s.r8 r))).retire (.orR8 r))

/-- OR A,n8 (R284). -/
def execOrN8 (n : Byte) (s : State) : Result :=
  .next ((s.setAccumulator (or8 (s.reg .a) n)).retire (.orN8 n))

/-- OR A,[HL] (R285). -/
def execOrHL (s : State) : Result :=
  .next ((s.readHL.2.setAccumulator (or8 (s.reg .a) s.readHL.1)).retire .orHL)

/-- XOR A,r8 (R286). -/
def execXorR8 (r : R8) (s : State) : Result :=
  .next ((s.setAccumulator (xor8 (s.reg .a) (s.r8 r))).retire (.xorR8 r))

/-- XOR A,n8 (R287). -/
def execXorN8 (n : Byte) (s : State) : Result :=
  .next ((s.setAccumulator (xor8 (s.reg .a) n)).retire (.xorN8 n))

/-- XOR A,[HL] (R288). -/
def execXorHL (s : State) : Result :=
  .next ((s.readHL.2.setAccumulator (xor8 (s.reg .a) s.readHL.1)).retire .xorHL)

/-- The flags an instruction without an ALU function hands to `writeFlags`: no source of it is ALU but CCF's C. -/
def noAlu (c : Bool) : Flags := { z := false, n := false, h := false, c := c }

/-- CPL (R289). -/
def execCpl (s : State) : Result :=
  .next (((s.setReg .a (s.reg .a ^^^ 0xFF)).writeFlags cplSources (noAlu false)).retire .cpl)

/-- DAA (R290). -/
def execDaa (s : State) : Result :=
  let alu := bcdAdjust (s.reg .a) s.flagN s.flagH s.flagC
  .next (((s.setReg .a alu.v).writeFlags daaSources alu.flags).retire .daa)

/-- SCF (R291). -/
def execScf (s : State) : Result := .next ((s.writeFlags scfSources (noAlu false)).retire .scf)

/-- CCF (R292): the record's c is the complement of C. -/
def execCcf (s : State) : Result := .next ((s.writeFlags ccfSources (noAlu (!s.flagC))).retire .ccf)

end Sys2Proof.Machine
end

