-- ==== Sys2Proof/Machine/RotateShift.lean ====
section
/-! DEFINITION. Rotates, shifts and swap (44_rotate_shift.md): one meaning per rule R300-R319. The [HL] forms read the byte
at HL, then write the result back to it (R74). -/

namespace Sys2Proof.Machine

/-- RLCA (R300): Z is 0 whatever the result (R160). -/
def execRlca (s : State) : Result := .next ((s.updateR8 .a (rotate .left (s.reg .a)) rotASources).retire .rlca)

/-- RRCA (R301): Z is 0 whatever the result (R160). -/
def execRrca (s : State) : Result := .next ((s.updateR8 .a (rotate .right (s.reg .a)) rotASources).retire .rrca)

/-- RLA (R302): Z is 0 whatever the result (R160). -/
def execRla (s : State) : Result := .next ((s.updateR8 .a (rotateCarry .left (s.reg .a) s.flagC) rotASources).retire .rla)

/-- RRA (R303): Z is 0 whatever the result (R160). -/
def execRra (s : State) : Result := .next ((s.updateR8 .a (rotateCarry .right (s.reg .a) s.flagC) rotASources).retire .rra)

/-- RLC r8 (R304). -/
def execRlcR8 (r : R8) (s : State) : Result :=
  .next ((s.updateR8 r (rotate .left (s.r8 r)) .fromAlu).retire (.rlcR8 r))

/-- RLC [HL] (R308). -/
def execRlcHL (s : State) : Result :=
  .next ((s.readHL.2.updateHL (rotate .left s.readHL.1) .fromAlu).retire .rlcHL)

/-- RRC r8 (R305). -/
def execRrcR8 (r : R8) (s : State) : Result :=
  .next ((s.updateR8 r (rotate .right (s.r8 r)) .fromAlu).retire (.rrcR8 r))

/-- RRC [HL] (R309). -/
def execRrcHL (s : State) : Result :=
  .next ((s.readHL.2.updateHL (rotate .right s.readHL.1) .fromAlu).retire .rrcHL)

/-- RL r8 (R306). -/
def execRlR8 (r : R8) (s : State) : Result :=
  .next ((s.updateR8 r (rotateCarry .left (s.r8 r) s.flagC) .fromAlu).retire (.rlR8 r))

/-- RL [HL] (R310). -/
def execRlHL (s : State) : Result :=
  .next ((s.readHL.2.updateHL (rotateCarry .left s.readHL.1 s.flagC) .fromAlu).retire .rlHL)

/-- RR r8 (R307). -/
def execRrR8 (r : R8) (s : State) : Result :=
  .next ((s.updateR8 r (rotateCarry .right (s.r8 r) s.flagC) .fromAlu).retire (.rrR8 r))

/-- RR [HL] (R311). -/
def execRrHL (s : State) : Result :=
  .next ((s.readHL.2.updateHL (rotateCarry .right s.readHL.1 s.flagC) .fromAlu).retire .rrHL)

/-- SLA r8 (R312). -/
def execSlaR8 (r : R8) (s : State) : Result :=
  .next ((s.updateR8 r (shiftLeft (s.r8 r)) .fromAlu).retire (.slaR8 r))

/-- SLA [HL] (R315). -/
def execSlaHL (s : State) : Result :=
  .next ((s.readHL.2.updateHL (shiftLeft s.readHL.1) .fromAlu).retire .slaHL)

/-- SRA r8 (R313). -/
def execSraR8 (r : R8) (s : State) : Result :=
  .next ((s.updateR8 r (shiftRightA (s.r8 r)) .fromAlu).retire (.sraR8 r))

/-- SRA [HL] (R316). -/
def execSraHL (s : State) : Result :=
  .next ((s.readHL.2.updateHL (shiftRightA s.readHL.1) .fromAlu).retire .sraHL)

/-- SWAP r8 (R318). -/
def execSwapR8 (r : R8) (s : State) : Result :=
  .next ((s.updateR8 r (swapNibbles (s.r8 r)) .fromAlu).retire (.swapR8 r))

/-- SWAP [HL] (R319). -/
def execSwapHL (s : State) : Result :=
  .next ((s.readHL.2.updateHL (swapNibbles s.readHL.1) .fromAlu).retire .swapHL)

/-- SRL r8 (R314). -/
def execSrlR8 (r : R8) (s : State) : Result :=
  .next ((s.updateR8 r (shiftRightL (s.r8 r)) .fromAlu).retire (.srlR8 r))

/-- SRL [HL] (R317). -/
def execSrlHL (s : State) : Result :=
  .next ((s.readHL.2.updateHL (shiftRightL s.readHL.1) .fromAlu).retire .srlHL)

end Sys2Proof.Machine
end

