-- ==== Sys2Proof/Machine/Prefixed.lean ====
section
/-! DEFINITION. The prefix row of the opcode table (R409): 0xCB followed by `b` is the prefixed instruction of `b`. -/

namespace Sys2Proof.Machine

/-- The rotates, shifts and swap of a register, selected by bits 5:3 (R105). -/
def execPrefixedR8 (y : BitVec 3) (r : R8) (s : State) : Result :=
  match y with
  | 0b000#3 => execRlcR8 r s
  | 0b001#3 => execRrcR8 r s
  | 0b010#3 => execRlR8 r s
  | 0b011#3 => execRrR8 r s
  | 0b100#3 => execSlaR8 r s
  | 0b101#3 => execSraR8 r s
  | 0b110#3 => execSwapR8 r s
  | _ => execSrlR8 r s

/-- The rotates, shifts and swap of the HL-pointed byte, selected by bits 5:3 (R105). -/
def execPrefixedHL (y : BitVec 3) (s : State) : Result :=
  match y with
  | 0b000#3 => execRlcHL s
  | 0b001#3 => execRrcHL s
  | 0b010#3 => execRlHL s
  | 0b011#3 => execRrHL s
  | 0b100#3 => execSlaHL s
  | 0b101#3 => execSraHL s
  | 0b110#3 => execSwapHL s
  | _ => execSrlHL s

/-- The prefix and its second byte: the descriptor is PREFIXED[b] (R409), selected by the fields of `b` (R105). -/
def execPrefixCB (b : Byte) (s : State) : Result :=
  match opX b, R8.ofCode (opZ b) with
  | 0b00#2, some r => execPrefixedR8 (opY b) r s
  | 0b00#2, none => execPrefixedHL (opY b) s
  | 0b01#2, some r => execBitR8 (opY b) r s
  | 0b01#2, none => execBitHL (opY b) s
  | 0b10#2, some r => execResR8 (opY b) r s
  | 0b10#2, none => execResHL (opY b) s
  | _, some r => execSetR8 (opY b) r s
  | _, none => execSetHL (opY b) s

end Sys2Proof.Machine
end

