-- ==== Sys2Proof/Machine/System.lean ====
section
/-! DEFINITION. System instructions (47_system.md R380-R384) and the unmapped opcode slots (R413). -/

namespace Sys2Proof.Machine

/-- NOP (R380). -/
def execNop (s : State) : Result := .next (s.retire .nop)

/-- DI (R381): at once. -/
def execDi (s : State) : Result := .next (State.retire { s with ime := false } .di)

/-- EI (R382): at once, with no delay. -/
def execEi (s : State) : Result := .next (State.retire { s with ime := true } .ei)

/-- HALT (R383, R412): PC <- nextPC, and sched <- INF in place of the cycle advance. -/
def execHalt (s : State) : Result := .next { s with pc := s.nextPC .halt, sched := none }

/-- STOP (R384, R414): the fault record alone changes. -/
def execStop (s : State) : Result := .next (s.raise (.stopUnimplemented s.pc 0x10))

/-- A slot with no descriptor (R413): the fault record alone changes. -/
def execUnmapped (b : Byte) (s : State) : Result := .next (s.raise (.unmappedOpcode s.pc b))

end Sys2Proof.Machine
end

