-- ==== Sys2Proof/Machine/Dispatch.lean ====
section
/-! DEFINITION. The meaning of every instruction: one arm per constructor of Instr. -/

namespace Sys2Proof.Machine

def exec (i : Instr) (s : State) : Host.Outcome State Fault Refusal :=
  match i with
  -- loads, stores, push and pop (41_load_store.md)
  | .ldR8R8 rd r => Sys2Proof.Machine.execLdR8R8 rd r s
  | .ldR8N8 rd n => Sys2Proof.Machine.execLdR8N8 rd n s
  | .ldR8HL rd => Sys2Proof.Machine.execLdR8HL rd s
  | .ldHLR8 r => Sys2Proof.Machine.execLdHLR8 r s
  | .ldHLN8 n => Sys2Proof.Machine.execLdHLN8 n s
  | .ldABC => Sys2Proof.Machine.execLdABC s
  | .ldADE => Sys2Proof.Machine.execLdADE s
  | .ldBCA => Sys2Proof.Machine.execLdBCA s
  | .ldDEA => Sys2Proof.Machine.execLdDEA s
  | .ldAN16 n => Sys2Proof.Machine.execLdAN16 n s
  | .ldN16A n => Sys2Proof.Machine.execLdN16A n s
  | .ldhAN8 n => Sys2Proof.Machine.execLdhAN8 n s
  | .ldhN8A n => Sys2Proof.Machine.execLdhN8A n s
  | .ldhAC => Sys2Proof.Machine.execLdhAC s
  | .ldhCA => Sys2Proof.Machine.execLdhCA s
  | .ldAHLI => Sys2Proof.Machine.execLdAHLI s
  | .ldAHLD => Sys2Proof.Machine.execLdAHLD s
  | .ldHLIA => Sys2Proof.Machine.execLdHLIA s
  | .ldHLDA => Sys2Proof.Machine.execLdHLDA s
  | .ldR16N16 p n => Sys2Proof.Machine.execLdR16N16 p n s
  | .ldN16SP n => Sys2Proof.Machine.execLdN16SP n s
  | .ldSPHL => Sys2Proof.Machine.execLdSPHL s
  | .pushR16 p => Sys2Proof.Machine.execPushR16 p s
  | .popR16 p => Sys2Proof.Machine.execPopR16 p s
  -- arithmetic (42_arith.md)
  | .addR8 r => Sys2Proof.Machine.execAddR8 r s
  | .addN8 n => Sys2Proof.Machine.execAddN8 n s
  | .addHL => Sys2Proof.Machine.execAddHL s
  | .adcR8 r => Sys2Proof.Machine.execAdcR8 r s
  | .adcN8 n => Sys2Proof.Machine.execAdcN8 n s
  | .adcHL => Sys2Proof.Machine.execAdcHL s
  | .subR8 r => Sys2Proof.Machine.execSubR8 r s
  | .subN8 n => Sys2Proof.Machine.execSubN8 n s
  | .subHL => Sys2Proof.Machine.execSubHL s
  | .sbcR8 r => Sys2Proof.Machine.execSbcR8 r s
  | .sbcN8 n => Sys2Proof.Machine.execSbcN8 n s
  | .sbcHL => Sys2Proof.Machine.execSbcHL s
  | .cpR8 r => Sys2Proof.Machine.execCpR8 r s
  | .cpN8 n => Sys2Proof.Machine.execCpN8 n s
  | .cpHL => Sys2Proof.Machine.execCpHL s
  | .incR8 rd => Sys2Proof.Machine.execIncR8 rd s
  | .incHL => Sys2Proof.Machine.execIncHL s
  | .decR8 rd => Sys2Proof.Machine.execDecR8 rd s
  | .decHL => Sys2Proof.Machine.execDecHL s
  | .incR16 p => Sys2Proof.Machine.execIncR16 p s
  | .decR16 p => Sys2Proof.Machine.execDecR16 p s
  | .addHLR16 p => Sys2Proof.Machine.execAddHLR16 p s
  | .addSPE8 e => Sys2Proof.Machine.execAddSPE8 e s
  | .ldHLSPE8 e => Sys2Proof.Machine.execLdHLSPE8 e s
  -- logic, complement, decimal adjust, carry flag (43_logic.md)
  | .andR8 r => Sys2Proof.Machine.execAndR8 r s
  | .andN8 n => Sys2Proof.Machine.execAndN8 n s
  | .andHL => Sys2Proof.Machine.execAndHL s
  | .orR8 r => Sys2Proof.Machine.execOrR8 r s
  | .orN8 n => Sys2Proof.Machine.execOrN8 n s
  | .orHL => Sys2Proof.Machine.execOrHL s
  | .xorR8 r => Sys2Proof.Machine.execXorR8 r s
  | .xorN8 n => Sys2Proof.Machine.execXorN8 n s
  | .xorHL => Sys2Proof.Machine.execXorHL s
  | .cpl => Sys2Proof.Machine.execCpl s
  | .daa => Sys2Proof.Machine.execDaa s
  | .scf => Sys2Proof.Machine.execScf s
  | .ccf => Sys2Proof.Machine.execCcf s
  -- rotates, shifts, swap (44_rotate_shift.md)
  | .rlca => Sys2Proof.Machine.execRlca s
  | .rrca => Sys2Proof.Machine.execRrca s
  | .rla => Sys2Proof.Machine.execRla s
  | .rra => Sys2Proof.Machine.execRra s
  | .rlcR8 r => Sys2Proof.Machine.execRlcR8 r s
  | .rlcHL => Sys2Proof.Machine.execRlcHL s
  | .rrcR8 r => Sys2Proof.Machine.execRrcR8 r s
  | .rrcHL => Sys2Proof.Machine.execRrcHL s
  | .rlR8 r => Sys2Proof.Machine.execRlR8 r s
  | .rlHL => Sys2Proof.Machine.execRlHL s
  | .rrR8 r => Sys2Proof.Machine.execRrR8 r s
  | .rrHL => Sys2Proof.Machine.execRrHL s
  | .slaR8 r => Sys2Proof.Machine.execSlaR8 r s
  | .slaHL => Sys2Proof.Machine.execSlaHL s
  | .sraR8 r => Sys2Proof.Machine.execSraR8 r s
  | .sraHL => Sys2Proof.Machine.execSraHL s
  | .swapR8 r => Sys2Proof.Machine.execSwapR8 r s
  | .swapHL => Sys2Proof.Machine.execSwapHL s
  | .srlR8 r => Sys2Proof.Machine.execSrlR8 r s
  | .srlHL => Sys2Proof.Machine.execSrlHL s
  -- single bits (45_bit.md)
  | .bitR8 u r => Sys2Proof.Machine.execBitR8 u r s
  | .bitHL u => Sys2Proof.Machine.execBitHL u s
  | .resR8 u r => Sys2Proof.Machine.execResR8 u r s
  | .resHL u => Sys2Proof.Machine.execResHL u s
  | .setR8 u r => Sys2Proof.Machine.execSetR8 u r s
  | .setHL u => Sys2Proof.Machine.execSetHL u s
  -- jumps, calls, returns, restarts (46_control.md)
  | .jpN16 n => Sys2Proof.Machine.execJpN16 n s
  | .jpCcN16 cc n => Sys2Proof.Machine.execJpCcN16 cc n s
  | .jpHL => Sys2Proof.Machine.execJpHL s
  | .jrE8 e => Sys2Proof.Machine.execJrE8 e s
  | .jrCcE8 cc e => Sys2Proof.Machine.execJrCcE8 cc e s
  | .callN16 n => Sys2Proof.Machine.execCallN16 n s
  | .callCcN16 cc n => Sys2Proof.Machine.execCallCcN16 cc n s
  | .rstU3 u => Sys2Proof.Machine.execRstU3 u s
  | .ret => Sys2Proof.Machine.execRet s
  | .retCc cc => Sys2Proof.Machine.execRetCc cc s
  | .reti => Sys2Proof.Machine.execReti s
  -- system (47_system.md)
  | .nop => Sys2Proof.Machine.execNop s
  | .di => Sys2Proof.Machine.execDi s
  | .ei => Sys2Proof.Machine.execEi s
  | .halt => Sys2Proof.Machine.execHalt s
  | .stop => Sys2Proof.Machine.execStop s
  -- the table's two rows that are no instruction
  | .prefixCB b => Sys2Proof.Machine.execPrefixCB b s
  | .unmapped b => Sys2Proof.Machine.execUnmapped b s

end Sys2Proof.Machine
end

