-- ==== Sys2Proof/Machine/Fetch.lean ====
section
/-! DEFINITION. Fetching and decoding the instruction at PC (R114, R409, R72, R74), the environment's writes between two
ticks (R418), and placing an instruction's bytes where the next fetch reads them. -/

namespace Sys2Proof.Machine

/-- Fetch and decode: the opcode at PC, then, in increasing address order, the bytes the instruction has after it, each a
bus read (R74, R409). A slot with no descriptor and STOP are read no further than the opcode (R384, R413). -/
def State.fetch (s : State) : Instr × State :=
  let r0 := s.memRead s.pc
  let r1 := r0.2.memRead (s.pc + 1)
  let r2 := r1.2.memRead (s.pc + 2)
  match bytesReadAfter r0.1 with
  | 0 => (decodeBytes r0.1 0 0, r0.2)
  | 1 => (decodeBytes r0.1 r1.1 0, r1.2)
  | _ => (decodeBytes r0.1 r1.1 r2.1, r2.2)

/-- Make the writes at the head of `ws` whose cycle has come, in order; the rest stays to come. -/
def applyDue (now : Nat) (ws : List EnvWrite) (s : State) : State :=
  match ws with
  | [] => { s with env := [] }
  | w :: rest =>
    if w.cycle ≤ now then applyDue now rest (s.store w.addr w.value) else { s with env := w :: rest }

/-- The environment's step before the tick of `s.cycle` (R418, R424): its due writes, in the order it makes them. They are
no transactions of the CORE, so `bus` does not record them. -/
def State.takeEnv (s : State) : State := applyDue s.cycle s.env s

/-- Whether a fetch at `a` reads back the byte held there. -/
def State.readsBack (s : State) (a : Word) : Bool :=
  if coreClaims a then s.platform.coreClaimsFirst else s.platform.claimant a == some .ram

/-- Hold three bytes at `a`, `a + 1`, `a + 2`, as their loader does; where the bus would not read them back, the platform
becomes flat RAM. -/
def State.place (s : State) (a : Word) (b0 b1 b2 : Byte) : State :=
  let t : State :=
    if s.readsBack a && s.readsBack (a + 1) && s.readsBack (a + 2) then s
    else { s with platform := Platform.flatRam }
  ((t.store a b0).store (a + 1) b1).store (a + 2) b2

/-- Make the next tick a dispatch tick that fetches: no fault, sched the coming cycle, and IME off only where an
interrupt would be serviced instead. -/
def State.readyToFetch (s : State) : State :=
  { s with fault := none, sched := some s.cycle, ime := s.ime && s.accepted.isNone }

end Sys2Proof.Machine
end

