-- ==== Sys2Proof/Machine/Tick.lean ====
section
/-! DEFINITION. The dispatch state machine (60_exceptions.md R400-R412): the body of tick(cycle), with the cycle value in
`State.cycle`. -/

namespace Sys2Proof.Machine

/-- The states of R400 (`faulted` is the spec's fifth). -/
inductive Phase where
  | faulted | halted | idle | servicing | fetching
deriving DecidableEq, Repr

/-- R400, for a tick whose cycle value is `s.cycle`. -/
def State.phase (s : State) : Phase :=
  if s.fault.isSome then .faulted
  else if s.sched = none then .halted
  else if s.sched ≠ some s.cycle then .idle
  else if s.ime && s.pending != 0 then .servicing
  else .fetching

/-- Step 1 of the tick, un-park (R402): IME takes no part. -/
def State.wake (s : State) : State :=
  if s.sched = none ∧ s.pending ≠ 0 then { s with sched := some s.cycle } else s

/-- A tick that faults leaves sched as the tick found it (R9, R416), the un-park of its own step 1 included (log 10). -/
def keepSchedOnFault (before : Option Nat) (r : Result) : Result :=
  match r with
  | .next t => .next (if t.fault.isSome then { t with sched := before } else t)
  | .fault f => .fault f
  | .refused e => .refused e

/-- tick(cycle) at `cycle = s.cycle` (R401): faulted, nothing; un-park; not the scheduled cycle, nothing; else an
interrupt entry, or the instruction at PC. -/
def tick (s : State) : Result :=
  if s.fault.isSome then .next s
  else
    let t := s.wake
    if t.sched = some t.cycle then
      match t.accepted with
      | some i => .next (t.enterInterrupt i)
      | none => keepSchedOnFault s.sched (exec t.fetch.1 t.fetch.2)
    else .next t

/-- The host's counter moves on by one (R426, D20). -/
def countCycle (r : Result) : Result :=
  match r with
  | .next t => .next { t with cycle := t.cycle + 1 }
  | .fault f => .fault f
  | .refused e => .refused e

end Sys2Proof.Machine
end

