-- ==== Sys2Proof/Machine/Step.lean ====
section
/-! DEFINITION. One step: the environment's writes before the tick, the tick (R401), and the host's counter (R426). And
where the host stores an instruction so that the next step runs it. -/

namespace Sys2Proof.Machine

/-- One call of tick by the host, with consecutive cycle values (R422, R426, D20; log 5). -/
def step (s : State) : Host.Outcome State Fault Refusal :=
  countCycle (tick s.takeEnv)

/-- `s` with the instruction of `w` (numbered as spec/opcode_table.json numbers it, the bits from `nbits` up zero) where
the next step fetches it, after the environment's due writes, and with the next tick a dispatch tick (log 12). -/
def State.withFetchWord (s : State) (nbits w : Nat) : State :=
  let t := s.takeEnv
  let v := w % 2 ^ nbits
  (t.place t.pc (BitVec.ofNat 8 v) (BitVec.ofNat 8 (v / 256)) (BitVec.ofNat 8 (v / 65536))).readyToFetch

end Sys2Proof.Machine
end

