-- ==== Sys2Proof/Safety.lean ====
section
/-! DEFINITION. What claims say of states and runs: the invariant of the machine, and the three ways a run ends (R459). -/

namespace Sys2Proof.Machine

/-- F bits 3:0 are zero (R21). -/
abbrev State.FlagsClean (s : State) : Prop := s.reg .f &&& 0x0F = 0

/-- Memory is canonical, and the keys of the two latches are not used: IE and IF are held in their own fields. -/
abbrev State.MemClean (s : State) : Prop :=
  s.mem.wf = true ∧ s.mem.read ieAddr.toNat = unlisted ∧ s.mem.read ifAddr.toNat = unlisted

/-- The scheduled cycle has not gone by (R426): the CORE is not stuck. A faulted or a parked CORE waits for no cycle. -/
abbrev State.OnTime (s : State) : Prop := s.fault = none → ∀ n, s.sched = some n → s.cycle ≤ n

/-- The invariant of the machine: from any state that has it, every step keeps it. -/
structure State.Inv (s : State) : Prop where
  flags : s.FlagsClean
  mem : s.MemClean
  onTime : s.OnTime

/-- The run has not faulted: what a claim that assumes no fault asks of every state (R416, R459). -/
abbrev State.Unfaulted (s : State) : Prop := s.fault = none

/-- Parked for good (R459 c): HALT with nothing enabled and pending, and an environment with no write to come. -/
abbrev State.ParkedForGood (s : State) : Prop := s.fault = none ∧ s.sched = none ∧ s.pending = 0 ∧ s.env = []

/-- The states a run from `s` visits. -/
inductive Reaches (s : State) : State → Prop where
  | start : Reaches s s
  | tick {t u : State} (h : Reaches s t) (step_eq : step t = .next u) : Reaches s u

end Sys2Proof.Machine
end

