-- ==== Sys2Proof/Certificates/Slice0/Obligations.lean ====
section
/-! DEFINITION. The statements for the provers, and the words they are written in. -/

namespace Sys2Proof.Machine

/-! ### The words of the statements -/

/-- The bytes `bs` are the instruction `i`: from them and any bytes after them the decoder reads `i` and leaves the rest. -/
def Encodes (bs : List Byte) (i : Instr) : Prop := ∀ rest, decode (bs ++ rest) = .ok (i, rest)

/-- What an instruction changes. An element it does not name stays as it was. -/
structure Change where
  /-- PC afterwards -/
  pc : Word
  /-- the cycles sched advances by -/
  cost : Nat
  /-- the registers written, with their new values -/
  regs : List (Reg × Byte) := []
  /-- SP afterwards, if written -/
  sp : Option Word := none
  /-- IME afterwards, if written -/
  ime : Option Bool := none
  /-- the bus transactions, oldest first; its writes are all that is stored -/
  bus : List BusEvent := []

/-- The address a bus transaction writes. -/
def writeAddress : BusEvent → Option Word
  | .read _ _ => none
  | .write a _ => some a

/-- `t` is `s` changed as `c` says and in nothing else: every register, SP, IME, every stored byte (IE at 0xFFFF, IF at
0xFF0F, HRAM and RAM), sched, the bus log, and the fault record, the host's counter, the environment and the platform. -/
structure Changed (s t : State) (c : Change) : Prop where
  pc : t.pc = c.pc
  sched : t.sched = s.sched.map fun n => n + c.cost
  regs : ∀ x ∈ c.regs, t.reg x.1 = x.2
  otherRegs : ∀ r, r ∉ c.regs.map Prod.fst → t.reg r = s.reg r
  sp : t.sp = c.sp.getD s.sp
  ime : t.ime = c.ime.getD s.ime
  bus : t.bus = c.bus.reverse ++ s.bus
  written : ∀ a v, BusEvent.write a v ∈ c.bus → t.stored a = if s.holds a then v else s.stored a
  unwritten : ∀ a, (∀ x ∈ c.bus, some a ≠ writeAddress x) → t.stored a = s.stored a
  fault : t.fault = s.fault
  cycle : t.cycle = s.cycle
  env : t.env = s.env
  platform : t.platform = s.platform

/-- `i` completes from `s`: exec answers a next state, which is `s` changed as `c` says. -/
def Runs (i : Instr) (s : State) (c : Change) : Prop := ∃ t, exec i s = .next t ∧ Changed s t c

/-- The rule of an instruction: its bytes are `bs`, and from `s` it completes and makes the change `c`. -/
def Rule (bs : List Byte) (i : Instr) (s : State) (c : Change) : Prop := Encodes bs i ∧ Runs i s c

/-- The two bytes of a 16-bit immediate as they stand in memory (R103, R112). -/
def imm16Bytes (n : Word) : List Byte := [n.setWidth 8, (n >>> 8).setWidth 8]

/-- A pair's two registers with the value `v` in them, AF without its low nibble (R22, R24). -/
def pairValue (p : Pair) (v : Word) : List (Reg × Byte) :=
  match p with
  | .bc => [(.b, (v >>> 8).setWidth 8), (.c, v.setWidth 8)]
  | .de => [(.d, (v >>> 8).setWidth 8), (.e, v.setWidth 8)]
  | .hl => [(.h, (v >>> 8).setWidth 8), (.l, v.setWidth 8)]
  | .af => [(.a, (v >>> 8).setWidth 8), (.f, v.setWidth 8 &&& 0xF0)]

/-- The registers a 16-bit result goes to where code 11 stands for SP (R27): none, for SP. -/
def pairSPRegs (p : Pair) (v : Word) : List (Reg × Byte) := if p = .af then [] else pairValue p v

/-- SP, if a 16-bit result goes there (R27). -/
def pairSPValue (p : Pair) (v : Word) : Option Word := if p = .af then some v else none

/-- A number from one bit. -/
def bit (c : Bool) : Nat := if c then 1 else 0

/-- A byte from one bit. -/
def bitByte (c : Bool) : Byte := if c then 1 else 0

/-- A and F after the sum of A = `a`, `x` and the carry `c` (R144, in numbers). -/
def sumInA (a x : Byte) (c : Bool) : List (Reg × Byte) :=
  let v := a + x + bitByte c
  [(.a, v), (.f, flagByte (v == 0) false (a.toNat % 16 + x.toNat % 16 + bit c > 15) (a.toNat + x.toNat + bit c > 255))]

/-- F after A = `a` less `x` less the borrow `b` (R147, in numbers). -/
def differenceFlags (a x : Byte) (b : Bool) : Byte :=
  flagByte (a - x - bitByte b == 0) true (a.toNat % 16 < x.toNat % 16 + bit b) (a.toNat < x.toNat + bit b)

/-- A and F after the difference. -/
def differenceInA (a x : Byte) (b : Bool) : List (Reg × Byte) :=
  [(.a, a - x - bitByte b), (.f, differenceFlags a x b)]

/-- A and F after a logical operation with result `v`. -/
def logicInA (v : Byte) (h : Bool) : List (Reg × Byte) := [(.a, v), (.f, flagByte (v == 0) false h false)]

/-- F after a rotate, shift or swap with result `v` and the carry `c`. -/
def shiftFlags (v : Byte) (c : Bool) : Byte := flagByte (v == 0) false false c

/-- Whether the condition `cc` holds (R360). -/
def condHolds (cc : Cond) (s : State) : Bool :=
  match cc with
  | .nz => s.flagZ == false
  | .z => s.flagZ == true
  | .nc => s.flagC == false
  | .c => s.flagC == true

/-- The two writes of a push of `v` (R69). -/
def pushed (s : State) (v : Word) : List BusEvent :=
  [.write (s.sp - 2) (v.setWidth 8), .write (s.sp - 1) ((v >>> 8).setWidth 8)]

/-- The low byte a pop reads (R70). -/
def poppedLow (s : State) : Byte := s.answer s.sp

/-- The high byte a pop reads, after the low one (R70, R74). -/
def poppedHigh (s : State) : Byte := (s.memRead s.sp).2.answer (s.sp + 1)

/-- The two reads of a pop. -/
def popped (s : State) : List BusEvent := [.read s.sp (poppedLow s), .read (s.sp + 1) (poppedHigh s)]

/-- `k` rotations of the nine bits of a value and the carry (R156). -/
def rotatedThroughCarry (dir : Dir) (k : Nat) (v : Byte) (c : Bool) : Byte × Bool :=
  match k with
  | 0 => (v, c)
  | k + 1 =>
    let r := rotateCarry dir v c
    rotatedThroughCarry dir k r.v r.flags.c

/-- The state a tick of `s` finds dispatches: no fault, and sched is this cycle. -/
def Dispatches (e : State) : Prop := e.fault = none ∧ e.sched = some e.cycle

end Sys2Proof.Machine

open Sys2Proof Sys2Proof.Machine

/-! ### Reset and the invariant -/

/-- R36, R450-R453: what reset leaves. The values other than PC are the spec's own decision D5 (log 1). -/
def Obligations.ResetLeavesTheValuesOfR36 : Prop :=
  (∀ r, State.reset.reg r = 0x00) ∧ State.reset.sp = 0x0000 ∧ State.reset.pc = 0x0000 ∧ State.reset.ime = false ∧
    State.reset.ie = 0x00 ∧ State.reset.iflag = 0x00 ∧ (∀ k, State.reset.hram k = 0x00) ∧ State.reset.sched = some 0 ∧
    State.reset.fault = none ∧ State.reset.cycle = 0 ∧
    State.reset.flagZ = false ∧ State.reset.flagN = false ∧ State.reset.flagH = false ∧ State.reset.flagC = false

/-- The invariant of the machine holds at reset (R453). -/
def Obligations.ResetHasTheInvariant : Prop := State.reset.Inv

/-- Every step from every state that has the invariant keeps it: F bits 3:0 stay zero (R21), memory stays canonical, and
sched is never a cycle gone by (R426). -/
def Obligations.EveryStepKeepsTheInvariant : Prop := ∀ s t, s.Inv → step s = .next t → t.Inv

/-- Every step answers a next state: there is no other exception, and nothing blocks (R417, R422). A fault is a record
in the next state (log 8). -/
def Obligations.EveryStepAnswersANextState : Prop :=
  ∀ s, ∃ t, step s = .next t ∧ t.cycle = s.cycle + 1 ∧ t.platform = s.platform

/-! ### Decoding -/

/-- R100-R113, R119: the decoder reads from the encoding of every well-formed instruction that instruction, whatever
bytes follow. -/
def Obligations.DecodeOfEncodeIsTheInstruction : Prop :=
  ∀ (i : Instr) (rest : List Byte), WellFormed i = true → decode (encode i ++ rest) = .ok (i, rest)

/-- The other direction: the bytes of what was decoded are the bytes read; of STOP only the first (R384). -/
def Obligations.EncodeOfDecodeIsTheBytes : Prop :=
  ∀ (b0 b1 b2 : Byte) (i : Instr) (rest : List Byte), decode [b0, b1, b2] = .ok (i, rest) →
    if i = .stop then b0 = 0x10 ∧ rest = [b2] else encode i ++ rest = [b0, b1, b2]

/-- R114, R117: any three bytes decode, to a well-formed instruction, whose length the first byte alone tells. -/
def Obligations.DecodingIsTotalAndTheFirstByteTellsTheLength : Prop :=
  ∀ b0 b1 b2 : Byte, (∃ i rest, decode [b0, b1, b2] = .ok (i, rest) ∧ WellFormed i = true ∧ i.length ≤ 3) ∧
    ∀ c1 c2 : Byte, (decodeBytes b0 b1 b2).length = (decodeBytes b0 c1 c2).length

/-- R115, R116: exactly eleven first bytes are unmapped, and no byte after 0xCB is. -/
def Obligations.TheElevenUnmappedSlots : Prop :=
  (∀ b0 b1 b2 : Byte, (decodeBytes b0 b1 b2).descriptor = none ↔
      b0 ∈ [0xD3, 0xDB, 0xDD, 0xE3, 0xE4, 0xEB, 0xEC, 0xED, 0xF4, 0xFC, 0xFD]) ∧
    ∀ b : Byte, ∃ d, (decodePrefixed b).descriptor = some d ∧ d.kind = .prefixed ∧ d.length = 2

/-- At least one word of every operation (each first word of a mnemonic: LD, LDH, PUSH, ...) and one unmapped slot, written
out from the encoding of its rule, decodes to its instruction. -/
def Obligations.SampleWordsDecode : Prop :=
  decode [0x41] = .ok (.ldR8R8 .b .c, []) ∧ decode [0x3E, 0x7B] = .ok (.ldR8N8 .a 0x7B, []) ∧
    decode [0x21, 0xC4, 0xB1] = .ok (.ldR16N16 .hl 0xB1C4, []) ∧ decode [0x31, 0xFE, 0xFF] = .ok (.ldR16N16 .af 0xFFFE, []) ∧
    decode [0xF5] = .ok (.pushR16 .af, []) ∧ decode [0x9A] = .ok (.sbcR8 .d, []) ∧ decode [0xE8, 0xFE] = .ok (.addSPE8 0xFE, []) ∧
    decode [0x27] = .ok (.daa, []) ∧ decode [0xCB, 0x37] = .ok (.swapR8 .a, []) ∧ decode [0xCB, 0x7C] = .ok (.bitR8 7 .h, []) ∧
    decode [0xCB, 0xBE] = .ok (.resHL 7, []) ∧ decode [0x38, 0xFC] = .ok (.jrCcE8 .c 0xFC, []) ∧
    decode [0xDC, 0x34, 0x12] = .ok (.callCcN16 .c 0x1234, []) ∧ decode [0xEF] = .ok (.rstU3 5, []) ∧
    decode [0x76] = .ok (.halt, []) ∧ decode [0x10, 0x00] = .ok (.stop, []) ∧ decode [0xFD] = .ok (.unmapped 0xFD, []) ∧
    decode [0xF0, 0x44] = .ok (.ldhAN8 0x44, []) ∧ decode [0xC1] = .ok (.popR16 .bc, []) ∧ decode [0x82] = .ok (.addR8 .d, []) ∧
    decode [0xCE, 0x3B] = .ok (.adcN8 0x3B, []) ∧ decode [0x90] = .ok (.subR8 .b, []) ∧ decode [0xBE] = .ok (.cpHL, []) ∧
    decode [0x0C] = .ok (.incR8 .c, []) ∧ decode [0x3B] = .ok (.decR16 .af, []) ∧ decode [0xA1] = .ok (.andR8 .c, []) ∧
    decode [0xF6, 0x0F] = .ok (.orN8 0x0F, []) ∧ decode [0xAF] = .ok (.xorR8 .a, []) ∧ decode [0x2F] = .ok (.cpl, []) ∧
    decode [0x37] = .ok (.scf, []) ∧ decode [0x3F] = .ok (.ccf, []) ∧ decode [0x07] = .ok (.rlca, []) ∧
    decode [0x0F] = .ok (.rrca, []) ∧ decode [0x17] = .ok (.rla, []) ∧ decode [0x1F] = .ok (.rra, []) ∧
    decode [0xCB, 0x00] = .ok (.rlcR8 .b, []) ∧ decode [0xCB, 0x0E] = .ok (.rrcHL, []) ∧ decode [0xCB, 0x11] = .ok (.rlR8 .c, []) ∧
    decode [0xCB, 0x1E] = .ok (.rrHL, []) ∧ decode [0xCB, 0x23] = .ok (.slaR8 .e, []) ∧ decode [0xCB, 0x2C] = .ok (.sraR8 .h, []) ∧
    decode [0xCB, 0x3D] = .ok (.srlR8 .l, []) ∧ decode [0xCB, 0xCE] = .ok (.setHL 1, []) ∧
    decode [0xC3, 0x50, 0x01] = .ok (.jpN16 0x0150, []) ∧ decode [0xC9] = .ok (.ret, []) ∧ decode [0xD9] = .ok (.reti, []) ∧
    decode [0x00] = .ok (.nop, []) ∧ decode [0xF3] = .ok (.di, []) ∧ decode [0xFB] = .ok (.ei, [])

/-! ### Registers, flags and the ALU -/

/-- R22, R23, R24, R27: a pair is its two registers, high one first; AF reads and takes no low nibble; writing a pair
writes its two registers only; code 11 with SP substitution is SP and no register. -/
def Obligations.PairsAliasTheirRegisters : Prop :=
  ∀ (s : State) (p : Pair) (v : Word) (r : Reg),
    (s.pair .bc = s.reg .b ++ s.reg .c ∧ s.pair .de = s.reg .d ++ s.reg .e ∧ s.pair .hl = s.reg .h ++ s.reg .l ∧
      s.pair .af = (s.reg .a ++ s.reg .f) &&& 0xFFF0) ∧
    (∀ w, (r, w) ∈ pairValue p v → (s.setPair p v).reg r = w) ∧
    (r ∉ (pairValue p v).map Prod.fst → (s.setPair p v).reg r = s.reg r) ∧
    (s.setPair p v).pair p = (if p = .af then v &&& 0xFFF0 else v) ∧
    s.pairSP p = (if p = .af then s.sp else s.pair p) ∧
    s.setPairSP p v = (if p = .af then { s with sp := v } else s.setPair p v)

/-- R37, R142: `setBit` writes the one bit and leaves the other seven; an 8-bit and a 16-bit record pack as the value above the
flag byte, unpacking is `packed >> 8` and `packed[7:0]` of any packed form, and it returns the value and the four flags. -/
def Obligations.BitHelpersAndPackedRecords : Prop :=
  (∀ (v : Byte) (i j : Fin 8) (on : Bool), testBit (setBit v i on) j = if i = j then on else testBit v j) ∧
    (∀ p : BitVec 24, (unpackValue p).setWidth 24 = p >>> 8 ∧ unpackFlags p = p.setWidth 8) ∧
    ∀ (b : Byte) (w : Word) (f : Flags),
      let flags := flagByte f.z f.n f.h f.c
      let p8 := ({ v := b, flags := f } : Alu8).pack
      let p16 := ({ v := w, flags := f } : Alu16).pack
      (p8 = (b.setWidth 24 <<< 8) ||| flags.setWidth 24 ∧ unpackValue p8 = b.setWidth 16 ∧ unpackFlags p8 = flags) ∧
      (p16 = (w.setWidth 24 <<< 8) ||| flags.setWidth 24 ∧ unpackValue p16 = w ∧ unpackFlags p16 = flags) ∧
      flags.getLsbD 7 = f.z ∧ flags.getLsbD 6 = f.n ∧ flags.getLsbD 5 = f.h ∧ flags.getLsbD 4 = f.c ∧ flags.extractLsb' 0 4 = 0

/-- R21, R141, R159, R160: each flag of F takes its own source's value, from F as it was, and bits 3:0 become 0. -/
def Obligations.FlagCombinationWritesEachFlagFromItsSource : Prop :=
  ∀ (s : State) (src : FlagSources) (alu : Flags),
    let new : FlagSource → Bool → Bool → Bool := fun x a old =>
      match x with
      | .v0 => false
      | .v1 => true
      | .alu => a
      | .cpu => old
    let t := s.writeFlags src alu
    (t.reg .f).getLsbD 7 = new src.z alu.z ((s.reg .f).getLsbD 7) ∧
      (t.reg .f).getLsbD 6 = new src.n alu.n ((s.reg .f).getLsbD 6) ∧
      (t.reg .f).getLsbD 5 = new src.h alu.h ((s.reg .f).getLsbD 5) ∧
      (t.reg .f).getLsbD 4 = new src.c alu.c ((s.reg .f).getLsbD 4) ∧
      (t.reg .f).extractLsb' 0 4 = 0 ∧ ∀ r, r ≠ .f → t.reg r = s.reg r

/-- R145, R146, R161: 16-bit sums wrap; their carries are those of the named bits, and z and n are 0. -/
def Obligations.SixteenBitSums : Prop :=
  ∀ l r : Word,
    add16L l r = { v := l + r, flags := { z := false, n := false
                                          h := (l.setWidth 4).toNat + (r.setWidth 4).toNat ≥ 16
                                          c := (l.setWidth 8).toNat + (r.setWidth 8).toNat ≥ 256 } } ∧
    add16H l r = { v := l + r, flags := { z := false, n := false
                                          h := (l.setWidth 12).toNat + (r.setWidth 12).toNat ≥ 4096
                                          c := l.toNat + r.toNat ≥ 65536 } }

/-- Two laws of the ALU the spec infers (R161, and the nine rotations of R156 and 90_conflicts.md C2): subtraction undoes
addition, with or without the carry; nine rotations through the carry restore the value and the carry, and left undoes
right. -/
def Obligations.SubtractionUndoesAdditionAndNineRotationsRestore : Prop :=
  (∀ (a b : Byte) (c : Bool), (sub8 (add8 a b c).v b c).v = a ∧ (add8 (sub8 a b c).v b c).v = a) ∧
  ∀ (dir : Dir) (v : Byte) (c : Bool),
    rotatedThroughCarry dir 9 v c = (v, c) ∧
      (let r := rotateCarry .right v c
       (rotateCarry .left r.v r.flags.c).v = v ∧ (rotateCarry .left r.v r.flags.c).flags.c = c)

/-- R148, R290: after adding two decimal bytes, DAA's adjustment gives their decimal sum and its carry; after subtracting
them, their decimal difference modulo 100 and its borrow. -/
def Obligations.DecimalAdjustGivesDecimalArithmetic : Prop :=
  ∀ x y : Nat, x < 100 → y < 100 → ∀ c : Bool,
    let bcd : Nat → Byte := fun n => BitVec.ofNat 8 (n / 10 % 10 * 16 + n % 10)
    let sum := add8 (bcd x) (bcd y) c
    let dif := sub8 (bcd x) (bcd y) c
    (bcdAdjust sum.v sum.flags.n sum.flags.h sum.flags.c).v = bcd (x + y + bit c) ∧
      (bcdAdjust sum.v sum.flags.n sum.flags.h sum.flags.c).flags.c = decide (x + y + bit c ≥ 100) ∧
      (bcdAdjust dif.v dif.flags.n dif.flags.h dif.flags.c).v = bcd (100 + x - y - bit c) ∧
      (bcdAdjust dif.v dif.flags.n dif.flags.h dif.flags.c).flags.c = decide (x < y + bit c)

/-! ### The bus -/

/-- R64, R65: a CORE read at 0xFF0F gives IF, at 0xFFFF IE, at 0xFF80-0xFFFE the HRAM byte, where the CORE is asked first
(D15); a write stores all 8 bits into the element and does nothing else, whether the environment makes it (`store`) or the
CORE (`memWrite`, which also puts it on the bus); another component reads the element as stored (`stored`). -/
def Obligations.CoreElementsOnTheBus : Prop :=
  ∀ (s : State) (v : Byte) (k : Fin 127),
    let a : Word := 0xFF80 + BitVec.ofNat 16 k.val
    (s.platform.coreClaimsFirst = true →
      (s.memRead 0xFF0F).1 = s.iflag ∧ (s.memRead 0xFFFF).1 = s.ie ∧ (s.memRead a).1 = s.hram k) ∧
    (s.stored 0xFF0F = s.iflag ∧ s.stored 0xFFFF = s.ie ∧ s.stored a = s.hram k) ∧
    (s.store 0xFF0F v = { s with iflag := v } ∧ s.store 0xFFFF v = { s with ie := v }) ∧
    (s.MemClean → s.store a v = { s with mem := (s.store a v).mem } ∧ (s.store a v).hram k = v ∧
      ∀ b, b ≠ a → (s.store a v).stored b = s.stored b) ∧
    ∀ b, s.memWrite b v = { s.store b v with bus := .write b v :: s.bus }

/-- R61, R62: at an address the CORE does not claim, the first component that claims it answers, RAM with the byte held and a
device with the oracle's byte; 0xFF when none claims; the byte is held where some RAM covers the address. At the CORE's own
addresses the oracle answers where another component is asked first (D15). A read changes the bus log alone, and so does a
write where neither the CORE nor RAM holds the byte. The model's choices, all DESIGN CHOICE: that the components are RAM and
devices (log 2), that who is asked first at the CORE's addresses is one field of the platform (log 4), and what the oracle
answers, the free value `Config.busRead` of the cycle, the bus log and the address (log 17). -/
def Obligations.BusAnswersAsTheContractSays : Prop :=
  ∀ (s : State) (a : Word) (v : Byte),
    (coreClaims a = false →
      ((∀ x ∈ s.platform.components, ¬(x.lo.toNat ≤ a.toNat ∧ a.toNat ≤ x.hi.toNat)) → (s.memRead a).1 = 0xFF) ∧
      (∀ before x after, s.platform.components = before ++ x :: after →
        (∀ y ∈ before, ¬(y.lo.toNat ≤ a.toNat ∧ a.toNat ≤ y.hi.toNat)) → x.lo.toNat ≤ a.toNat → a.toNat ≤ x.hi.toNat →
        (s.memRead a).1 = match x.kind with
          | .ram => s.stored a
          | .device => Config.busRead s.cycle s.bus a) ∧
      (s.holds a = true ↔ ∃ x ∈ s.platform.components, x.kind = .ram ∧ x.lo.toNat ≤ a.toNat ∧ a.toNat ≤ x.hi.toNat)) ∧
    (coreClaims a = true → s.platform.coreClaimsFirst = false → (s.memRead a).1 = Config.busRead s.cycle s.bus a) ∧
    (s.holds a = false → s.memWrite a v = { s with bus := .write a v :: s.bus }) ∧
    (s.memRead a).2 = { s with bus := .read a (s.memRead a).1 :: s.bus }

/-- R77, R79: where a read gives back what is held, it gives the byte of the last write, and a write elsewhere is not
seen; each write and each read is one bus transaction (R62, R61). -/
def Obligations.ReadsSeeTheMostRecentWrite : Prop :=
  ∀ (s : State) (a b : Word) (v : Byte), s.MemClean → s.readsBack a = true →
    ((s.memWrite a v).memRead a).1 = v ∧ (b ≠ a → ((s.memWrite b v).memRead a).1 = (s.memRead a).1) ∧
      ((s.memWrite a v).memRead a).2.bus = .read a v :: .write a v :: s.bus

/-- R66-R68, R71, R73: 16-bit accesses are two 8-bit ones, low byte first, at any address, wrapping from 0xFFFF to 0. -/
def Obligations.SixteenBitAccessesAreTwoBytesLowFirst : Prop :=
  ∀ (s : State) (a v : Word),
    s.memRead16 a =
      ((s.memRead a).2.answer (a + 1) ++ s.answer a, ((s.memRead a).2.memRead (a + 1)).2) ∧
    (s.memRead16 a).2.bus = .read (a + 1) ((s.memRead a).2.answer (a + 1)) :: .read a (s.answer a) :: s.bus ∧
    s.memWrite16 a v = (s.memWrite a (v.setWidth 8)).memWrite (a + 1) ((v >>> 8).setWidth 8) ∧
    (s.memWrite16 0xFFFF v).bus = .write 0x0000 ((v >>> 8).setWidth 8) :: .write 0xFFFF (v.setWidth 8) :: s.bus

/-- R69, R70: on a stack that reads back, a push leaves the low byte at SP and the high byte at SP + 1, and a pop then gives
the value and SP back. -/
def Obligations.PopAfterPushRestores : Prop :=
  ∀ (s : State) (v : Word), s.MemClean → s.readsBack (s.sp - 2) = true → s.readsBack (s.sp - 1) = true →
    let t := s.push16 v
    t.sp = s.sp - 2 ∧ (t.memRead t.sp).1 = v.setWidth 8 ∧ (t.memRead (t.sp + 1)).1 = (v >>> 8).setWidth 8 ∧
      t.pop16.1 = v ∧ t.pop16.2.sp = s.sp ∧ ∀ a, a ≠ s.sp - 2 → a ≠ s.sp - 1 → t.pop16.2.stored a = s.stored a

/-! ### Loads, stores, push and pop -/

/-- R200, R201, R202. -/
def Obligations.LoadsIntoARegister : Prop :=
  ∀ (s : State) (rd r : R8) (n : Byte),
    Rule [0b01#2 ++ rd.code ++ r.code] (.ldR8R8 rd r) s { pc := s.pc + 1, cost := 1, regs := [(rd.toReg, s.reg r.toReg)] } ∧
    Rule [0b00#2 ++ rd.code ++ 0b110#3, n] (.ldR8N8 rd n) s { pc := s.pc + 2, cost := 2, regs := [(rd.toReg, n)] } ∧
    Rule [0b01#2 ++ rd.code ++ 0b110#3] (.ldR8HL rd) s
      { pc := s.pc + 1, cost := 2, regs := [(rd.toReg, s.answer (s.pair .hl))]
        bus := [.read (s.pair .hl) (s.answer (s.pair .hl))] }

/-- R203, R204. -/
def Obligations.StoresThroughHL : Prop :=
  ∀ (s : State) (r : R8) (n : Byte), s.MemClean →
    Rule [0b01110#5 ++ r.code] (.ldHLR8 r) s { pc := s.pc + 1, cost := 2, bus := [.write (s.pair .hl) (s.reg r.toReg)] } ∧
    Rule [0x36, n] (.ldHLN8 n) s { pc := s.pc + 2, cost := 3, bus := [.write (s.pair .hl) n] }

/-- R205, R206, R209, R211, R213. -/
def Obligations.LoadsOfA : Prop :=
  ∀ (s : State) (n : Byte) (nn : Word),
    let load (a pc : Word) (cost : Nat) : Change := { pc := pc, cost := cost, regs := [(.a, s.answer a)], bus := [.read a (s.answer a)] }
    Rule [0x0A] .ldABC s (load (s.pair .bc) (s.pc + 1) 2) ∧ Rule [0x1A] .ldADE s (load (s.pair .de) (s.pc + 1) 2) ∧
    Rule (0xFA :: imm16Bytes nn) (.ldAN16 nn) s (load nn (s.pc + 3) 4) ∧
    Rule [0xF0, n] (.ldhAN8 n) s (load (0xFF#8 ++ n) (s.pc + 2) 3) ∧
    Rule [0xF2] .ldhAC s (load (0xFF#8 ++ s.reg .c) (s.pc + 1) 2)

/-- R207, R208, R210, R212, R214. -/
def Obligations.StoresOfA : Prop :=
  ∀ (s : State) (n : Byte) (nn : Word), s.MemClean →
    let store (a pc : Word) (cost : Nat) : Change := { pc := pc, cost := cost, bus := [.write a (s.reg .a)] }
    Rule [0x02] .ldBCA s (store (s.pair .bc) (s.pc + 1) 2) ∧ Rule [0x12] .ldDEA s (store (s.pair .de) (s.pc + 1) 2) ∧
    Rule (0xEA :: imm16Bytes nn) (.ldN16A nn) s (store nn (s.pc + 3) 4) ∧
    Rule [0xE0, n] (.ldhN8A n) s (store (0xFF#8 ++ n) (s.pc + 2) 3) ∧
    Rule [0xE2] .ldhCA s (store (0xFF#8 ++ s.reg .c) (s.pc + 1) 2)

/-- R215, R216, R217, R218: HL moves after the access, and wraps. -/
def Obligations.LoadsAndStoresThatStepHL : Prop :=
  ∀ s : State,
    let hl := s.pair .hl
    let load (w : Word) : Change :=
      { pc := s.pc + 1, cost := 2, regs := (.a, s.answer hl) :: pairValue .hl w, bus := [.read hl (s.answer hl)] }
    let store (w : Word) : Change := { pc := s.pc + 1, cost := 2, regs := pairValue .hl w, bus := [.write hl (s.reg .a)] }
    Rule [0x2A] .ldAHLI s (load (hl + 1)) ∧ Rule [0x3A] .ldAHLD s (load (hl - 1)) ∧
      (s.MemClean → Rule [0x22] .ldHLIA s (store (hl + 1)) ∧ Rule [0x32] .ldHLDA s (store (hl - 1)))

/-- R219, R220, R221. -/
def Obligations.SixteenBitLoads : Prop :=
  ∀ (s : State) (p : Pair) (n : Word),
    Rule ((0b00#2 ++ p.code ++ 0b0001#4) :: imm16Bytes n) (.ldR16N16 p n) s
      { pc := s.pc + 3, cost := 3, regs := pairSPRegs p n, sp := pairSPValue p n } ∧
    Rule [0xF9] .ldSPHL s { pc := s.pc + 1, cost := 2, sp := some (s.pair .hl) } ∧
    (s.MemClean →
      Rule (0x08 :: imm16Bytes n) (.ldN16SP n) s
        { pc := s.pc + 3, cost := 5, bus := [.write n (s.sp.setWidth 8), .write (n + 1) ((s.sp >>> 8).setWidth 8)] })

/-- R222, R223: code 11 is AF; PUSH AF pushes, and POP AF keeps, no low nibble. -/
def Obligations.PushAndPopOfAPair : Prop :=
  ∀ (s : State) (p : Pair),
    (s.MemClean →
      Rule [0b11#2 ++ p.code ++ 0b0101#4] (.pushR16 p) s
        { pc := s.pc + 1, cost := 4, sp := some (s.sp - 2), bus := pushed s (s.pair p) }) ∧
    Rule [0b11#2 ++ p.code ++ 0b0001#4] (.popR16 p) s
      { pc := s.pc + 1, cost := 3, sp := some (s.sp + 2), regs := pairValue p (poppedHigh s ++ poppedLow s)
        bus := popped s }

/-! ### Arithmetic -/

/-- R240-R245. -/
def Obligations.AddAndAddWithCarry : Prop :=
  ∀ (s : State) (r : R8) (n : Byte),
    let a := s.reg .a
    let x := s.reg r.toReg
    let m := s.answer (s.pair .hl)
    let bus := [BusEvent.read (s.pair .hl) m]
    let c := s.flagC
    Rule [0b10000#5 ++ r.code] (.addR8 r) s { pc := s.pc + 1, cost := 1, regs := sumInA a x false } ∧
    Rule [0b10001#5 ++ r.code] (.adcR8 r) s { pc := s.pc + 1, cost := 1, regs := sumInA a x c } ∧
    Rule [0xC6, n] (.addN8 n) s { pc := s.pc + 2, cost := 2, regs := sumInA a n false } ∧
    Rule [0xCE, n] (.adcN8 n) s { pc := s.pc + 2, cost := 2, regs := sumInA a n c } ∧
    Rule [0x86] .addHL s { pc := s.pc + 1, cost := 2, regs := sumInA a m false, bus := bus } ∧
    Rule [0x8E] .adcHL s { pc := s.pc + 1, cost := 2, regs := sumInA a m c, bus := bus }

/-- R246-R251. -/
def Obligations.SubtractAndSubtractWithCarry : Prop :=
  ∀ (s : State) (r : R8) (n : Byte),
    let a := s.reg .a
    let x := s.reg r.toReg
    let m := s.answer (s.pair .hl)
    let bus := [BusEvent.read (s.pair .hl) m]
    let c := s.flagC
    Rule [0b10010#5 ++ r.code] (.subR8 r) s { pc := s.pc + 1, cost := 1, regs := differenceInA a x false } ∧
    Rule [0b10011#5 ++ r.code] (.sbcR8 r) s { pc := s.pc + 1, cost := 1, regs := differenceInA a x c } ∧
    Rule [0xD6, n] (.subN8 n) s { pc := s.pc + 2, cost := 2, regs := differenceInA a n false } ∧
    Rule [0xDE, n] (.sbcN8 n) s { pc := s.pc + 2, cost := 2, regs := differenceInA a n c } ∧
    Rule [0x96] .subHL s { pc := s.pc + 1, cost := 2, regs := differenceInA a m false, bus := bus } ∧
    Rule [0x9E] .sbcHL s { pc := s.pc + 1, cost := 2, regs := differenceInA a m c, bus := bus }

/-- R252, R253, R254: the flags of a subtraction; A is not written. -/
def Obligations.CompareWritesFlagsOnly : Prop :=
  ∀ (s : State) (r : R8) (n : Byte),
    let a := s.reg .a
    let m := s.answer (s.pair .hl)
    Rule [0b10111#5 ++ r.code] (.cpR8 r) s
      { pc := s.pc + 1, cost := 1, regs := [(.f, differenceFlags a (s.reg r.toReg) false)] } ∧
    Rule [0xFE, n] (.cpN8 n) s { pc := s.pc + 2, cost := 2, regs := [(.f, differenceFlags a n false)] } ∧
    Rule [0xBE] .cpHL s
      { pc := s.pc + 1, cost := 2, regs := [(.f, differenceFlags a m false)], bus := [.read (s.pair .hl) m] }

/-- R255, R256, R257, R258: C is kept; HL is not moved. -/
def Obligations.IncrementAndDecrementBytes : Prop :=
  ∀ (s : State) (r : R8),
    let inc (v : Byte) : Byte := flagByte (v + 1 == 0) false (v.toNat % 16 = 15) s.flagC
    let dec (v : Byte) : Byte := flagByte (v - 1 == 0) true (v.toNat % 16 = 0) s.flagC
    let x := s.reg r.toReg
    let hl := s.pair .hl
    let m := s.answer hl
    Rule [0b00#2 ++ r.code ++ 0b100#3] (.incR8 r) s { pc := s.pc + 1, cost := 1, regs := [(r.toReg, x + 1), (.f, inc x)] } ∧
    Rule [0b00#2 ++ r.code ++ 0b101#3] (.decR8 r) s { pc := s.pc + 1, cost := 1, regs := [(r.toReg, x - 1), (.f, dec x)] } ∧
    (s.MemClean →
      Rule [0x34] .incHL s { pc := s.pc + 1, cost := 3, regs := [(.f, inc m)], bus := [.read hl m, .write hl (m + 1)] } ∧
      Rule [0x35] .decHL s { pc := s.pc + 1, cost := 3, regs := [(.f, dec m)], bus := [.read hl m, .write hl (m - 1)] })

/-- R259, R260: no flag changes; code 11 is SP. -/
def Obligations.IncrementAndDecrementPairs : Prop :=
  ∀ (s : State) (p : Pair),
    let old := if p = .af then s.sp else s.pair p
    Rule [0b00#2 ++ p.code ++ 0b0011#4] (.incR16 p) s
      { pc := s.pc + 1, cost := 2, regs := pairSPRegs p (old + 1), sp := pairSPValue p (old + 1) } ∧
    Rule [0b00#2 ++ p.code ++ 0b1011#4] (.decR16 p) s
      { pc := s.pc + 1, cost := 2, regs := pairSPRegs p (old - 1), sp := pairSPValue p (old - 1) }

/-- R261, R262, R263: ADD HL keeps Z, and its H and C are the carries out of bits 11 and 15; with a signed byte the flags are
those of the unsigned low-byte sum, and Z = N = 0. -/
def Obligations.SixteenBitAdds : Prop :=
  ∀ (s : State) (p : Pair) (e : Byte),
    let l := s.pair .hl
    let x := if p = .af then s.sp else s.pair p
    let f := flagByte false false (s.sp.toNat % 16 + e.toNat % 16 > 15) (s.sp.toNat % 256 + e.toNat > 255)
    let v := s.sp + BitVec.ofInt 16 e.toInt
    Rule [0b00#2 ++ p.code ++ 0b1001#4] (.addHLR16 p) s
      { pc := s.pc + 1, cost := 2
        regs := (.f, flagByte s.flagZ false (l.toNat % 4096 + x.toNat % 4096 > 4095) (l.toNat + x.toNat > 65535)) ::
          pairValue .hl (l + x) } ∧
    Rule [0xE8, e] (.addSPE8 e) s { pc := s.pc + 2, cost := 4, sp := some v, regs := [(.f, f)] } ∧
    Rule [0xF8, e] (.ldHLSPE8 e) s { pc := s.pc + 2, cost := 3, regs := (.f, f) :: pairValue .hl v }

/-! ### Logic, complement, decimal adjust, carry flag -/

/-- R280-R288. -/
def Obligations.AndOrXor : Prop :=
  ∀ (s : State) (r : R8) (n : Byte),
    let a := s.reg .a
    let x := s.reg r.toReg
    let m := s.answer (s.pair .hl)
    let bus := [BusEvent.read (s.pair .hl) m]
    Rule [0b10100#5 ++ r.code] (.andR8 r) s { pc := s.pc + 1, cost := 1, regs := logicInA (a &&& x) true } ∧
    Rule [0xE6, n] (.andN8 n) s { pc := s.pc + 2, cost := 2, regs := logicInA (a &&& n) true } ∧
    Rule [0xA6] .andHL s { pc := s.pc + 1, cost := 2, regs := logicInA (a &&& m) true, bus := bus } ∧
    Rule [0b10110#5 ++ r.code] (.orR8 r) s { pc := s.pc + 1, cost := 1, regs := logicInA (a ||| x) false } ∧
    Rule [0xF6, n] (.orN8 n) s { pc := s.pc + 2, cost := 2, regs := logicInA (a ||| n) false } ∧
    Rule [0xB6] .orHL s { pc := s.pc + 1, cost := 2, regs := logicInA (a ||| m) false, bus := bus } ∧
    Rule [0b10101#5 ++ r.code] (.xorR8 r) s { pc := s.pc + 1, cost := 1, regs := logicInA (a ^^^ x) false } ∧
    Rule [0xEE, n] (.xorN8 n) s { pc := s.pc + 2, cost := 2, regs := logicInA (a ^^^ n) false } ∧
    Rule [0xAE] .xorHL s { pc := s.pc + 1, cost := 2, regs := logicInA (a ^^^ m) false, bus := bus }

/-- R289, R290 (with R148: the two corrections, when they apply, and the flags), R291, R292. -/
def Obligations.ComplementDecimalAdjustAndCarryFlag : Prop :=
  ∀ s : State,
    let a := s.reg .a
    let fixL : Bool := s.flagH || (!s.flagN && a.toNat % 16 > 9)
    let fixH : Bool := s.flagC || (!s.flagN && a.toNat > 0x99)
    let fix : Byte := if fixH then (if fixL then 0x66 else 0x60) else (if fixL then 0x06 else 0x00)
    let v := if s.flagN then a - fix else a + fix
    Rule [0x2F] .cpl s { pc := s.pc + 1, cost := 1, regs := [(.a, ~~~a), (.f, flagByte s.flagZ true true s.flagC)] } ∧
    Rule [0x27] .daa s { pc := s.pc + 1, cost := 1, regs := [(.a, v), (.f, flagByte (v == 0) s.flagN false fixH)] } ∧
    Rule [0x37] .scf s { pc := s.pc + 1, cost := 1, regs := [(.f, flagByte s.flagZ false false true)] } ∧
    Rule [0x3F] .ccf s { pc := s.pc + 1, cost := 1, regs := [(.f, flagByte s.flagZ false false (!s.flagC))] }

/-! ### Rotates, shifts and swap -/

/-- R300-R303: Z is 0 even where the result is 0 (R160). -/
def Obligations.AccumulatorRotates : Prop :=
  ∀ s : State,
    let a := s.reg .a
    let new (v : Byte) (c : Bool) : Change := { pc := s.pc + 1, cost := 1, regs := [(.a, v), (.f, flagByte false false false c)] }
    Rule [0x07] .rlca s (new (a <<< 1 ||| a >>> 7) (a.getLsbD 7)) ∧
    Rule [0x0F] .rrca s (new (a >>> 1 ||| a <<< 7) (a.getLsbD 0)) ∧
    Rule [0x17] .rla s (new (a <<< 1 ||| bitByte s.flagC) (a.getLsbD 7)) ∧
    Rule [0x1F] .rra s (new (a >>> 1 ||| bitByte s.flagC <<< 7) (a.getLsbD 0))

/-- R304-R307, R312-R314, R318. -/
def Obligations.RotatesShiftsAndSwapOfARegister : Prop :=
  ∀ (s : State) (r : R8),
    let x := s.reg r.toReg
    let new (v : Byte) (c : Bool) : Change := { pc := s.pc + 2, cost := 2, regs := [(r.toReg, v), (.f, shiftFlags v c)] }
    Rule [0xCB, 0b00000#5 ++ r.code] (.rlcR8 r) s (new (x <<< 1 ||| x >>> 7) (x.getLsbD 7)) ∧
    Rule [0xCB, 0b00001#5 ++ r.code] (.rrcR8 r) s (new (x >>> 1 ||| x <<< 7) (x.getLsbD 0)) ∧
    Rule [0xCB, 0b00010#5 ++ r.code] (.rlR8 r) s (new (x <<< 1 ||| bitByte s.flagC) (x.getLsbD 7)) ∧
    Rule [0xCB, 0b00011#5 ++ r.code] (.rrR8 r) s (new (x >>> 1 ||| bitByte s.flagC <<< 7) (x.getLsbD 0)) ∧
    Rule [0xCB, 0b00100#5 ++ r.code] (.slaR8 r) s (new (x <<< 1) (x.getLsbD 7)) ∧
    Rule [0xCB, 0b00101#5 ++ r.code] (.sraR8 r) s (new (x.sshiftRight 1) (x.getLsbD 0)) ∧
    Rule [0xCB, 0b00111#5 ++ r.code] (.srlR8 r) s (new (x >>> 1) (x.getLsbD 0)) ∧
    Rule [0xCB, 0b00110#5 ++ r.code] (.swapR8 r) s (new (x <<< 4 ||| x >>> 4) false)

/-- R308-R311, R315-R317, R319: read, then write back to the same address; HL is not moved. -/
def Obligations.RotatesShiftsAndSwapThroughHL : Prop :=
  ∀ s : State, s.MemClean →
    let hl := s.pair .hl
    let m := s.answer hl
    let new (v : Byte) (c : Bool) : Change :=
      { pc := s.pc + 2, cost := 4, regs := [(.f, shiftFlags v c)], bus := [.read hl m, .write hl v] }
    Rule [0xCB, 0x06] .rlcHL s (new (m <<< 1 ||| m >>> 7) (m.getLsbD 7)) ∧
    Rule [0xCB, 0x0E] .rrcHL s (new (m >>> 1 ||| m <<< 7) (m.getLsbD 0)) ∧
    Rule [0xCB, 0x16] .rlHL s (new (m <<< 1 ||| bitByte s.flagC) (m.getLsbD 7)) ∧
    Rule [0xCB, 0x1E] .rrHL s (new (m >>> 1 ||| bitByte s.flagC <<< 7) (m.getLsbD 0)) ∧
    Rule [0xCB, 0x26] .slaHL s (new (m <<< 1) (m.getLsbD 7)) ∧
    Rule [0xCB, 0x2E] .sraHL s (new (m.sshiftRight 1) (m.getLsbD 0)) ∧
    Rule [0xCB, 0x3E] .srlHL s (new (m >>> 1) (m.getLsbD 0)) ∧
    Rule [0xCB, 0x36] .swapHL s (new (m <<< 4 ||| m >>> 4) false)

/-! ### Single bits -/

/-- R340, R341: Z is the inverse of the bit, C is kept, and the operand is not written. -/
def Obligations.BitTests : Prop :=
  ∀ (s : State) (u : BitVec 3) (r : R8),
    let hl := s.pair .hl
    let m := s.answer hl
    Rule [0xCB, 0b01#2 ++ u ++ r.code] (.bitR8 u r) s
      { pc := s.pc + 2, cost := 2, regs := [(.f, flagByte (!(s.reg r.toReg).getLsbD u.toNat) false true s.flagC)] } ∧
    Rule [0xCB, 0b01#2 ++ u ++ 0b110#3] (.bitHL u) s
      { pc := s.pc + 2, cost := 3, regs := [(.f, flagByte (!m.getLsbD u.toNat) false true s.flagC)], bus := [.read hl m] }

/-- R342-R345: the one bit is written, no flag is; the HL forms write back even an unchanged byte. -/
def Obligations.BitResetsAndSets : Prop :=
  ∀ (s : State) (u : BitVec 3) (r : R8),
    let x := s.reg r.toReg
    let hl := s.pair .hl
    let m := s.answer hl
    let mask : Byte := BitVec.twoPow 8 u.toNat
    Rule [0xCB, 0b10#2 ++ u ++ r.code] (.resR8 u r) s { pc := s.pc + 2, cost := 2, regs := [(r.toReg, x &&& ~~~mask)] } ∧
    Rule [0xCB, 0b11#2 ++ u ++ r.code] (.setR8 u r) s { pc := s.pc + 2, cost := 2, regs := [(r.toReg, x ||| mask)] } ∧
    (s.MemClean →
      Rule [0xCB, 0b10#2 ++ u ++ 0b110#3] (.resHL u) s
        { pc := s.pc + 2, cost := 4, bus := [.read hl m, .write hl (m &&& ~~~mask)] } ∧
      Rule [0xCB, 0b11#2 ++ u ++ 0b110#3] (.setHL u) s
        { pc := s.pc + 2, cost := 4, bus := [.read hl m, .write hl (m ||| mask)] })

/-! ### Jumps, calls, returns -/

/-- R361-R365 with R360: absolute and relative jumps; a false condition costs the base cycles and moves past it. -/
def Obligations.JumpsAbsoluteAndRelative : Prop :=
  ∀ (s : State) (cc : Cond) (n : Word) (e : Byte),
    let rel := s.pc + 2 + BitVec.ofInt 16 e.toInt
    Rule (0xC3 :: imm16Bytes n) (.jpN16 n) s { pc := n, cost := 4 } ∧
    Rule ((0b110#3 ++ cc.code ++ 0b010#3) :: imm16Bytes n) (.jpCcN16 cc n) s
      (if condHolds cc s then { pc := n, cost := 4 } else { pc := s.pc + 3, cost := 3 }) ∧
    Rule [0xE9] .jpHL s { pc := s.pair .hl, cost := 1 } ∧
    Rule [0x18, e] (.jrE8 e) s { pc := rel, cost := 3 } ∧
    Rule [0b001#3 ++ cc.code ++ 0b000#3, e] (.jrCcE8 cc e) s
      (if condHolds cc s then { pc := rel, cost := 3 } else { pc := s.pc + 2, cost := 2 })

/-- R366, R367, R368: the address after the instruction is pushed. -/
def Obligations.CallsAndRestarts : Prop :=
  ∀ (s : State) (cc : Cond) (n : Word) (u : BitVec 3), s.MemClean →
    Rule (0xCD :: imm16Bytes n) (.callN16 n) s
      { pc := n, cost := 6, sp := some (s.sp - 2), bus := pushed s (s.pc + 3) } ∧
    Rule ((0b110#3 ++ cc.code ++ 0b100#3) :: imm16Bytes n) (.callCcN16 cc n) s
      (if condHolds cc s then { pc := n, cost := 6, sp := some (s.sp - 2), bus := pushed s (s.pc + 3) }
        else { pc := s.pc + 3, cost := 3 }) ∧
    Rule [0b11#2 ++ u ++ 0b111#3] (.rstU3 u) s
      { pc := BitVec.ofNat 16 (8 * u.toNat), cost := 4, sp := some (s.sp - 2), bus := pushed s (s.pc + 1) }

/-- R369, R370, R371, R419: PC from the stack; RETI also sets IME, and restores nothing else. -/
def Obligations.Returns : Prop :=
  ∀ (s : State) (cc : Cond),
    let back (cost : Nat) : Change :=
      { pc := poppedHigh s ++ poppedLow s, cost := cost, sp := some (s.sp + 2), bus := popped s }
    Rule [0xC9] .ret s (back 4) ∧
    Rule [0b110#3 ++ cc.code ++ 0b000#3] (.retCc cc) s
      (if condHolds cc s then back 5 else { pc := s.pc + 1, cost := 2 }) ∧
    Rule [0xD9] .reti s { back 4 with ime := some true }

/-! ### System instructions, the prefix, the slots with no instruction -/

/-- R380, R381, R382: IME changes at once, in the next state, by the spec's decision D10 (no delay of EI or DI); what the
next dispatch tick then does is InterruptEntry. -/
def Obligations.NopDiEi : Prop :=
  ∀ s : State,
    Rule [0x00] .nop s { pc := s.pc + 1, cost := 1 } ∧
    Rule [0xF3] .di s { pc := s.pc + 1, cost := 1, ime := some false } ∧
    Rule [0xFB] .ei s { pc := s.pc + 1, cost := 1, ime := some true }

/-- R412: HALT moves past itself and sets sched to INF; nothing else changes. -/
def Obligations.HaltParks : Prop :=
  ∀ s : State, Encodes [0x76] .halt ∧ exec .halt s = .next { s with pc := s.pc + 1, sched := none }

/-- R384, R413, R414, R416: STOP and a slot with no descriptor record the fault with PC and the opcode byte; nothing else
changes, so PC stays at the opcode and sched is not advanced. -/
def Obligations.StopAndUnmappedRecordTheFaultOnly : Prop :=
  ∀ (s : State) (b x : Byte),
    Encodes [0x10, x] .stop ∧ exec .stop s = .next { s with fault := some (.stopUnimplemented s.pc 0x10) } ∧
    (b ∈ [0xD3, 0xDB, 0xDD, 0xE3, 0xE4, 0xEB, 0xEC, 0xED, 0xF4, 0xFC, 0xFD] → Encodes [b] (.unmapped b)) ∧
    exec (.unmapped b) s = .next { s with fault := some (.unmappedOpcode s.pc b) }

/-- R104, R114, R409: after 0xCB the byte selects from the prefixed table; the model's constructor for the prefix row
(log 9) completes as the instruction so selected. -/
def Obligations.PrefixSelectsThePrefixedRow : Prop :=
  ∀ (s : State) (b : Byte), Encodes [0xCB, b] (decodePrefixed b) ∧
    ∃ t, exec (.prefixCB b) s = .next t ∧ exec (decodePrefixed b) s = .next t ∧ t.pc = s.pc + 2 ∧ t.sp = s.sp ∧ t.ime = s.ime

/-! ### The tick -/

/-- R74, R114, R401, R409, R410: on a dispatch tick that services no interrupt, the step is exec of the instruction that
decodes from the bytes the bus answers at PC, PC + 1, PC + 2, after just its own bytes have been read, in that order; then
the host's counter. Every instruction but STOP and a slot with no descriptor. -/
def Obligations.AStepRunsTheDecodedInstruction : Prop :=
  ∀ (s : State) (i : Instr) (rest : List Byte),
    let e := s.takeEnv
    let b0 := e.answer e.pc
    let e1 := (e.memRead e.pc).2
    let b1 := e1.answer (e.pc + 1)
    let e2 := (e1.memRead (e.pc + 1)).2
    let b2 := e2.answer (e.pc + 2)
    let reads := [BusEvent.read e.pc b0, .read (e.pc + 1) b1, .read (e.pc + 2) b2].take i.length
    Dispatches e → (e.ime = false ∨ e.pending = 0) → decode [b0, b1, b2] = .ok (i, rest) →
    i ≠ .stop → (∀ b, i ≠ .unmapped b) →
    ∃ t, exec i { e with bus := reads.reverse ++ e.bus } = .next t ∧ t.fault = none ∧
      step s = .next { t with cycle := e.cycle + 1 }

/-- R413, R414: where the byte at PC has no descriptor, or is STOP, the dispatch tick records the fault and leaves every other
element of the CORE as it was (R416: precise); the opcode has been read, and nothing after it. Any other byte at PC, the prefix
included, raises none. -/
def Obligations.AFaultingTickIsPrecise : Prop :=
  ∀ s : State,
    let e := s.takeEnv
    let b := e.answer e.pc
    let slots : List Byte := [0xD3, 0xDB, 0xDD, 0xE3, 0xE4, 0xEB, 0xEC, 0xED, 0xF4, 0xFC, 0xFD]
    Dispatches e → (e.ime = false ∨ e.pending = 0) →
    (b ∈ slots →
      step s = .next { e with fault := some (.unmappedOpcode e.pc b), bus := .read e.pc b :: e.bus, cycle := e.cycle + 1 }) ∧
    (b = 0x10 →
      step s = .next { e with fault := some (.stopUnimplemented e.pc 0x10), bus := .read e.pc b :: e.bus, cycle := e.cycle + 1 }) ∧
    (b ∉ slots → b ≠ 0x10 → ∃ t, step s = .next t ∧ t.fault = none)

/-- The model's reading (log 10, DEDUCED) of R416 on a tick that first un-parks the CORE: a fault on that tick, for a byte
with no descriptor (R413) or STOP (R414) at PC, leaves sched INF. -/
def Obligations.AFaultOnTheWakeTickLeavesTheCoreParked : Prop :=
  ∀ s : State,
    let e := s.takeEnv
    let b := e.answer e.pc
    e.fault = none → e.sched = none → e.pending ≠ 0 → e.ime = false →
    (b ∈ ([0xD3, 0xDB, 0xDD, 0xE3, 0xE4, 0xEB, 0xEC, 0xED, 0xF4, 0xFC, 0xFD] : List Byte) →
      step s = .next { e with fault := some (.unmappedOpcode e.pc b), bus := .read e.pc b :: e.bus, cycle := e.cycle + 1 }) ∧
    (b = 0x10 →
      step s = .next { e with fault := some (.stopUnimplemented e.pc 0x10), bus := .read e.pc b :: e.bus, cycle := e.cycle + 1 })

/-- R401, R416: a faulted CORE does nothing on any tick, and its record stays; only the environment's writes go on. -/
def Obligations.AFaultedCoreIsQuiescent : Prop :=
  ∀ s : State, s.fault ≠ none →
    step s = .next { s.takeEnv with cycle := s.cycle + 1 } ∧ s.takeEnv.fault = s.fault

/-- R403: a tick whose cycle is not the scheduled one changes nothing and issues no bus transaction, also when the
scheduled cycle has gone by. -/
def Obligations.AnIdleTickChangesNothing : Prop :=
  ∀ (s : State) (n : Nat), s.takeEnv.fault = none → s.takeEnv.sched = some n → n ≠ s.cycle →
    step s = .next { s.takeEnv with cycle := s.cycle + 1 } ∧ s.takeEnv.bus = s.bus

/-- R402, R423, R431: a parked CORE with nothing pending and enabled does nothing, whatever IME is. With something pending
and enabled the tick is, on that very cycle, the dispatch tick of the same state with sched at this cycle, whatever IME
is; where that tick faults, sched alone differs: it is still INF, the model's reading of R416 (log 10, DEDUCED). -/
def Obligations.AParkedCoreWakesOnAPendingInterrupt : Prop :=
  ∀ s : State, s.fault = none → s.sched = none →
    (s.ie &&& s.iflag &&& 0x1F = 0 → tick s = .next s) ∧
    (s.ie &&& s.iflag &&& 0x1F ≠ 0 →
      ∃ t, tick { s with sched := some s.cycle } = .next t ∧
        tick s = .next (if t.fault = none then t else { t with sched := none }))

/-- R404-R408: with IME set, the dispatch tick (or the wake tick) services the lowest pending and enabled source: IME and
that IF bit are cleared, PC is pushed, low byte first written, PC goes to 0x0040 + 8 i, and the handler's first dispatch
is 5 cycles later; no instruction is fetched and no other register is saved or changed. -/
def Obligations.InterruptEntry : Prop :=
  ∀ (s : State) (i : Nat),
    let e := s.takeEnv
    e.MemClean → e.fault = none → (e.sched = some e.cycle ∨ e.sched = none) → e.ime = true → i < 5 →
    (e.ie &&& e.iflag).getLsbD i = true → (∀ j < i, (e.ie &&& e.iflag).getLsbD j = false) →
    let e1 := { e with ime := false, iflag := e.iflag &&& ~~~BitVec.twoPow 8 i, sched := some e.cycle }
    ∃ t, step s = .next { t with cycle := e.cycle + 1 } ∧
      Changed e1 t { pc := BitVec.ofNat 16 (0x40 + 8 * i), cost := 5, sp := some (e.sp - 2), bus := pushed e e.pc }

/-- R407, R419: on a stack that reads back and lies clear of the latches, RETI from the entry state restores PC and SP,
sets IME, and leaves every register as it was. -/
def Obligations.ReturnFromInterruptRestores : Prop :=
  ∀ (s : State) (i : Source), s.MemClean → s.readsBack (s.sp - 2) = true → s.readsBack (s.sp - 1) = true →
    ∃ t, exec .reti (s.enterInterrupt i) = .next t ∧ t.pc = s.pc ∧ t.sp = s.sp ∧ t.ime = true ∧ t.regs = s.regs

/-- R418, R424: the environment's due writes are made before the tick, in their order, and are all it changes of the CORE:
no register, SP, PC, IME, sched or fault record; nothing goes on the CORE's bus log; with no write to come nothing changes.
That they are a queue of timed writes, that a write whose cycle has gone by is still made, and that a head not yet due holds
back those behind it is the model's choice (log 6, DESIGN CHOICE). -/
def Obligations.TheEnvironmentOnlyWritesThroughTheBus : Prop :=
  ∀ s : State,
    (s.takeEnv = { s with ie := s.takeEnv.ie, iflag := s.takeEnv.iflag, mem := s.takeEnv.mem, env := s.takeEnv.env }) ∧
    (∀ w rest, s.env = w :: rest → w.cycle ≤ s.cycle →
      s.takeEnv = ({ s.store w.addr w.value with env := rest } : State).takeEnv) ∧
    (∀ w rest, s.env = w :: rest → s.cycle < w.cycle → s.takeEnv = s) ∧
    (s.env = [] → s.takeEnv = s)

/-! ### Promises over all instructions -/

/-- From R25, R28: of all instructions only DI, EI and RETI write IME, and only those named here write SP. -/
def Obligations.OnlyTheNamedInstructionsWriteIMEAndSP : Prop :=
  ∀ (i : Instr) (s t : State), exec i s = .next t →
    (t.ime ≠ s.ime → i = .di ∨ i = .ei ∨ i = .reti) ∧
    (t.sp ≠ s.sp →
      (∃ p, i = .pushR16 p) ∨ (∃ p, i = .popR16 p) ∨ (∃ n, i = .callN16 n) ∨ (∃ cc n, i = .callCcN16 cc n) ∨
        (∃ u, i = .rstU3 u) ∨ i = .ret ∨ (∃ cc, i = .retCc cc) ∨ i = .reti ∨ i = .ldSPHL ∨ (∃ n, i = .ldR16N16 .af n) ∨
        i = .incR16 .af ∨ i = .decR16 .af ∨ ∃ e, i = .addSPE8 e)

/-- From R411, R412, R417, R424: every instruction but STOP and a slot with no descriptor completes without a fault, from
any state and with any operands, and every one but HALT moves a scheduled CORE's sched strictly on, by at most 6. -/
def Obligations.EveryOtherInstructionCompletesAndSchedIncreases : Prop :=
  ∀ (i : Instr) (s : State), i ≠ .stop → (∀ b, i ≠ .unmapped b) →
    ∃ t, exec i s = .next t ∧ t.fault = s.fault ∧
      ∀ n, s.sched = some n → i ≠ .halt → ∃ m, t.sched = some m ∧ n < m ∧ m ≤ n + 6

/-- R428, R458: no instruction's effect depends on sched: from two states that differ in sched alone it leaves states that
differ in sched alone. -/
def Obligations.NoInstructionReadsSched : Prop :=
  ∀ (i : Instr) (s : State) (c : Option Nat), ∃ t u, exec i s = .next t ∧ exec i { s with sched := c } = .next u ∧
    { u with sched := t.sched } = t

/-- From R73, R74: a step adds to the bus log at most five 8-bit transactions and takes none away, and the environment's
queue only shrinks, from its front. The bus log and the queue are the model's own (log 7 and log 6, both DESIGN CHOICE). -/
def Obligations.AStepMakesAtMostFiveBusTransactions : Prop :=
  ∀ s t : State, step s = .next t →
    (∃ new, t.bus = new ++ s.bus ∧ new.length ≤ 5) ∧ ∃ done, s.env = done ++ t.env
end

