-- ==== Sys2Proof/Laws/Alu.lean ====
section
/-! SUPPORT. The ALU functions once more, in the bit vector's own arithmetic and in numbers (40_alu.md). -/

namespace Sys2Proof.Machine

/-! ### The packed form (R142) -/

/-- The 16 bits `unpackValue` gives are all that `packed >> 8` holds. -/
theorem setWidth_unpackValue (p : BitVec 24) : (unpackValue p).setWidth 24 = p >>> 8 := by
  apply BitVec.eq_of_toNat_eq
  simp [unpackValue, Nat.shiftRight_eq_div_pow]
  omega

/-- The value comes back; what a value of more than 16 bits has above them does not fit the packed form. -/
@[simp] theorem unpackValue_packRecord (v : BitVec 24) (f : Flags) : unpackValue (packRecord v f) = v.setWidth 16 := by
  ext i hi
  simp [unpackValue, packRecord]
  omega

/-- The flag byte comes back. -/
@[simp] theorem unpackFlags_packRecord (v : BitVec 24) (f : Flags) :
    unpackFlags (packRecord v f) = flagByte f.z f.n f.h f.c := by
  ext i hi
  simp [unpackFlags, packRecord, hi, BitVec.getLsbD_eq_getElem, show i < 24 by omega]

/-! ### Sums, differences, shifts -/

theorem add8_v (l r : Byte) (c : Bool) : (add8 l r c).v = l + r + if c then 1 else 0 := by
  cases c <;> apply BitVec.eq_of_toNat_eq <;> simp [add8]

theorem add8_flags (l r : Byte) (c : Bool) :
    (add8 l r c).flags =
      { z := (add8 l r c).v == 0, n := false
        h := l.toNat % 16 + r.toNat % 16 + (if c then 1 else 0) > 15
        c := l.toNat + r.toNat + (if c then 1 else 0) > 255 } := by
  cases c <;> simp [add8, lowNibble]

theorem sub8_v (l r : Byte) (b : Bool) : (sub8 l r b).v = l - r - if b then 1 else 0 := by
  cases b <;> apply BitVec.eq_of_toNat_eq <;> simp [sub8, BitVec.toNat_ofInt, BitVec.toNat_sub] <;> omega

theorem sub8_flags (l r : Byte) (b : Bool) :
    (sub8 l r b).flags =
      { z := (sub8 l r b).v == 0, n := true
        h := l.toNat % 16 < r.toNat % 16 + (if b then 1 else 0)
        c := l.toNat < r.toNat + (if b then 1 else 0) } := by
  cases b <;> simp [sub8, lowNibble]

/-- The value of a record whose Z is "the value is 0" decides the record, with its carry. -/
theorem shiftRecord_flags (v : Byte) (c : Bool) :
    (shiftRecord v c).flags = { z := v == 0, n := false, h := false, c := c } := rfl

theorem shiftLeft_eq (v : Byte) : shiftLeft v = shiftRecord (v <<< 1) (v.getLsbD 7) := rfl

theorem shiftRightA_eq (v : Byte) : shiftRightA v = shiftRecord (v.sshiftRight 1) (v.getLsbD 0) := by
  revert v; decide

theorem shiftRightL_eq (v : Byte) : shiftRightL v = shiftRecord (v >>> 1) (v.getLsbD 0) := by
  revert v; decide

theorem rotate_left_eq (v : Byte) : rotate .left v = shiftRecord (v <<< 1 ||| v >>> 7) (v.getLsbD 7) := by
  revert v; decide

theorem rotate_right_eq (v : Byte) : rotate .right v = shiftRecord (v >>> 1 ||| v <<< 7) (v.getLsbD 0) := by
  revert v; decide

theorem rotateCarry_left_eq (v : Byte) (c : Bool) :
    rotateCarry .left v c = shiftRecord (v <<< 1 ||| if c then 1 else 0) (v.getLsbD 7) := by
  revert v c; decide

theorem rotateCarry_right_eq (v : Byte) (c : Bool) :
    rotateCarry .right v c = shiftRecord (v >>> 1 ||| (if c then (1 : Byte) else 0) <<< 7) (v.getLsbD 0) := by
  revert v c; decide

theorem swapNibbles_eq (v : Byte) : swapNibbles v = shiftRecord (v <<< 4 ||| v >>> 4) false := by
  revert v; decide

theorem xor_ff (v : Byte) : v ^^^ 0xFF#8 = ~~~v := by
  revert v; decide

/-- The correction of `bcdAdjust` as one byte. -/
theorem bcdAdjust_v (v : Byte) (n h c : Bool) :
    (bcdAdjust v n h c).v =
      let fixL : Bool := h || (!n && v.toNat % 16 > 9)
      let fixH : Bool := c || (!n && v.toNat > 0x99)
      let fix : Byte := if fixH then (if fixL then 0x66 else 0x60) else (if fixL then 0x06 else 0x00)
      if n then v - fix else v + fix := by
  cases n <;> cases h <;> cases c <;> simp [bcdAdjust, lowNibble] <;> split_ifs <;> rfl

theorem setBit_eq (v : Byte) (i : Nat) (on : Bool) :
    setBit v i on = if on then v ||| BitVec.twoPow 8 i else v &&& ~~~BitVec.twoPow 8 i := by
  simp [setBit, BitVec.twoPow_eq]

/-- A bit of a byte in which one bit has been written (R37). -/
theorem testBit_setBit (v : Byte) (i j : Fin 8) (on : Bool) :
    (setBit v i on).getLsbD j = if j = i then on else v.getLsbD j := by
  have h (i j : Fin 8) : (1#8 <<< i.val).getLsbD j = decide (j = i) := by revert i j; decide
  cases on
  · have hj : (~~~(1#8 <<< i.val)).getLsbD j = !decide (j = i) := by simp [← h, -BitVec.getLsbD_shiftLeft]
    simp only [setBit, Bool.false_eq_true, if_false, BitVec.getLsbD_and, hj]
    by_cases e : j = i <;> simp [e]
  · simp only [setBit, if_true, BitVec.getLsbD_or, h]
    by_cases e : j = i <;> simp [e]

end Sys2Proof.Machine
end

