-- ==== Sys2Proof/Laws/Decode.lean ====
section
/-! SUPPORT. The decoder by instruction format (R101-R104): one equation per format, and the bytes of a 16-bit immediate. -/

namespace Sys2Proof

/-- A 16-bit immediate is its two bytes, low byte first (R103, R112). -/
@[simp] theorem imm16_bytes (n : Word) : imm16 (n.extractLsb' 0 8) (n.extractLsb' 8 8) = n := by
  simp only [imm16]
  ext i hi
  simp only [BitVec.getElem_append, BitVec.getElem_extractLsb']
  split
  · simp [BitVec.getLsbD_eq_getElem hi]
  · rw [show 8 + (i - 8) = i by omega, BitVec.getLsbD_eq_getElem hi]

theorem extractLsb'_low (n : Word) : n.extractLsb' 0 8 = n.setWidth 8 := by
  ext i hi
  simp

theorem extractLsb'_high (n : Word) : n.extractLsb' 8 8 = (n >>> 8).setWidth 8 := by
  ext i hi
  simp

/-- Format P1: one byte. -/
theorem decode_one {b0 : Byte} (h : bytesAfter b0 = 0) (rest : List Byte) :
    decode (b0 :: rest) = .ok (decodeBytes b0 (rest.getD 0 0) (rest.getD 1 0), rest) := by
  simp [decode, h]

/-- Formats P2 and CB: two bytes. -/
theorem decode_two {b0 : Byte} (h : bytesAfter b0 = 1) (b1 : Byte) (rest : List Byte) :
    decode (b0 :: b1 :: rest) = .ok (decodeBytes b0 b1 (rest.getD 0 0), rest) := by
  simp [decode, h]

/-- Format P3: three bytes. -/
theorem decode_three {b0 : Byte} (h : bytesAfter b0 = 2) (b1 b2 : Byte) (rest : List Byte) :
    decode (b0 :: b1 :: b2 :: rest) = .ok (decodeBytes b0 b1 b2, rest) := by
  simp [decode, h]

/-- The prefix byte diverts to the prefixed table (R114). -/
theorem decode_cb (b : Byte) (rest : List Byte) : decode (0xCB :: b :: rest) = .ok (decodePrefixed b, rest) :=
  decode_two (b0 := 0xCB) (by decide) b rest

/-- The fields of a prefixed byte that names a register (R105). -/
theorem decodePrefixed_bit (u : BitVec 3) (r : R8) :
    decodePrefixed (0b01#2 ++ u ++ r.code) = .bitR8 u r ∧ decodePrefixed (0b10#2 ++ u ++ r.code) = .resR8 u r ∧
      decodePrefixed (0b11#2 ++ u ++ r.code) = .setR8 u r := by
  cases r <;> revert u <;> decide

/-- The fields of a prefixed byte that names the HL-pointed byte (R105). -/
theorem decodePrefixed_bitHL (u : BitVec 3) :
    decodePrefixed (0b01#2 ++ u ++ 0b110#3) = .bitHL u ∧ decodePrefixed (0b10#2 ++ u ++ 0b110#3) = .resHL u ∧
      decodePrefixed (0b11#2 ++ u ++ 0b110#3) = .setHL u := by
  revert u; decide

/-- The eight values of a 3-bit field. -/
theorem u3_cases (u : BitVec 3) : u = 0 ∨ u = 1 ∨ u = 2 ∨ u = 3 ∨ u = 4 ∨ u = 5 ∨ u = 6 ∨ u = 7 := by
  revert u; decide

end Sys2Proof
end

