-- ==== Sys2Proof/Laws/State.lean ====
section
/-! SUPPORT. One lemma per field per update: what each shared operation leaves unchanged, and what it sets, so that no
later proof unfolds a record update. -/

namespace Sys2Proof.Machine

variable (s : State)

/-! ### setReg -/

@[simp] theorem State.setReg_sp (r : Reg) (v : Byte) : (s.setReg r v).sp = s.sp := rfl
@[simp] theorem State.setReg_pc (r : Reg) (v : Byte) : (s.setReg r v).pc = s.pc := rfl
@[simp] theorem State.setReg_ime (r : Reg) (v : Byte) : (s.setReg r v).ime = s.ime := rfl
@[simp] theorem State.setReg_ie (r : Reg) (v : Byte) : (s.setReg r v).ie = s.ie := rfl
@[simp] theorem State.setReg_iflag (r : Reg) (v : Byte) : (s.setReg r v).iflag = s.iflag := rfl
@[simp] theorem State.setReg_mem (r : Reg) (v : Byte) : (s.setReg r v).mem = s.mem := rfl
@[simp] theorem State.setReg_sched (r : Reg) (v : Byte) : (s.setReg r v).sched = s.sched := rfl
@[simp] theorem State.setReg_fault (r : Reg) (v : Byte) : (s.setReg r v).fault = s.fault := rfl
@[simp] theorem State.setReg_cycle (r : Reg) (v : Byte) : (s.setReg r v).cycle = s.cycle := rfl
@[simp] theorem State.setReg_env (r : Reg) (v : Byte) : (s.setReg r v).env = s.env := rfl
@[simp] theorem State.setReg_platform (r : Reg) (v : Byte) : (s.setReg r v).platform = s.platform := rfl
@[simp] theorem State.setReg_bus (r : Reg) (v : Byte) : (s.setReg r v).bus = s.bus := rfl
@[simp] theorem State.setReg_regs (r : Reg) (v : Byte) : (s.setReg r v).regs = s.regs.set r v := rfl

/-! ### setPair -/

@[simp] theorem State.setPair_sp (p : Pair) (v : Word) : (s.setPair p v).sp = s.sp := rfl
@[simp] theorem State.setPair_pc (p : Pair) (v : Word) : (s.setPair p v).pc = s.pc := rfl
@[simp] theorem State.setPair_ime (p : Pair) (v : Word) : (s.setPair p v).ime = s.ime := rfl
@[simp] theorem State.setPair_ie (p : Pair) (v : Word) : (s.setPair p v).ie = s.ie := rfl
@[simp] theorem State.setPair_iflag (p : Pair) (v : Word) : (s.setPair p v).iflag = s.iflag := rfl
@[simp] theorem State.setPair_mem (p : Pair) (v : Word) : (s.setPair p v).mem = s.mem := rfl
@[simp] theorem State.setPair_sched (p : Pair) (v : Word) : (s.setPair p v).sched = s.sched := rfl
@[simp] theorem State.setPair_fault (p : Pair) (v : Word) : (s.setPair p v).fault = s.fault := rfl
@[simp] theorem State.setPair_cycle (p : Pair) (v : Word) : (s.setPair p v).cycle = s.cycle := rfl
@[simp] theorem State.setPair_env (p : Pair) (v : Word) : (s.setPair p v).env = s.env := rfl
@[simp] theorem State.setPair_platform (p : Pair) (v : Word) : (s.setPair p v).platform = s.platform := rfl
@[simp] theorem State.setPair_bus (p : Pair) (v : Word) : (s.setPair p v).bus = s.bus := rfl

/-! ### setPairSP -/

@[simp] theorem State.setPairSP_pc (p : Pair) (v : Word) : (s.setPairSP p v).pc = s.pc := by cases p <;> rfl
@[simp] theorem State.setPairSP_ime (p : Pair) (v : Word) : (s.setPairSP p v).ime = s.ime := by cases p <;> rfl
@[simp] theorem State.setPairSP_ie (p : Pair) (v : Word) : (s.setPairSP p v).ie = s.ie := by cases p <;> rfl
@[simp] theorem State.setPairSP_iflag (p : Pair) (v : Word) : (s.setPairSP p v).iflag = s.iflag := by cases p <;> rfl
@[simp] theorem State.setPairSP_mem (p : Pair) (v : Word) : (s.setPairSP p v).mem = s.mem := by cases p <;> rfl
@[simp] theorem State.setPairSP_sched (p : Pair) (v : Word) : (s.setPairSP p v).sched = s.sched := by cases p <;> rfl
@[simp] theorem State.setPairSP_fault (p : Pair) (v : Word) : (s.setPairSP p v).fault = s.fault := by cases p <;> rfl
@[simp] theorem State.setPairSP_cycle (p : Pair) (v : Word) : (s.setPairSP p v).cycle = s.cycle := by cases p <;> rfl
@[simp] theorem State.setPairSP_env (p : Pair) (v : Word) : (s.setPairSP p v).env = s.env := by cases p <;> rfl
@[simp] theorem State.setPairSP_platform (p : Pair) (v : Word) : (s.setPairSP p v).platform = s.platform := by cases p <;> rfl
@[simp] theorem State.setPairSP_bus (p : Pair) (v : Word) : (s.setPairSP p v).bus = s.bus := by cases p <;> rfl
@[simp] theorem State.setPairSP_sp (p : Pair) (v : Word) :
    (s.setPairSP p v).sp = if p = .af then v else s.sp := by cases p <;> rfl

/-! ### writeFlags -/

@[simp] theorem State.writeFlags_sp (src : FlagSources) (alu : Flags) : (s.writeFlags src alu).sp = s.sp := rfl
@[simp] theorem State.writeFlags_pc (src : FlagSources) (alu : Flags) : (s.writeFlags src alu).pc = s.pc := rfl
@[simp] theorem State.writeFlags_ime (src : FlagSources) (alu : Flags) : (s.writeFlags src alu).ime = s.ime := rfl
@[simp] theorem State.writeFlags_ie (src : FlagSources) (alu : Flags) : (s.writeFlags src alu).ie = s.ie := rfl
@[simp] theorem State.writeFlags_iflag (src : FlagSources) (alu : Flags) : (s.writeFlags src alu).iflag = s.iflag := rfl
@[simp] theorem State.writeFlags_mem (src : FlagSources) (alu : Flags) : (s.writeFlags src alu).mem = s.mem := rfl
@[simp] theorem State.writeFlags_sched (src : FlagSources) (alu : Flags) : (s.writeFlags src alu).sched = s.sched := rfl
@[simp] theorem State.writeFlags_fault (src : FlagSources) (alu : Flags) : (s.writeFlags src alu).fault = s.fault := rfl
@[simp] theorem State.writeFlags_cycle (src : FlagSources) (alu : Flags) : (s.writeFlags src alu).cycle = s.cycle := rfl
@[simp] theorem State.writeFlags_env (src : FlagSources) (alu : Flags) : (s.writeFlags src alu).env = s.env := rfl
@[simp] theorem State.writeFlags_platform (src : FlagSources) (alu : Flags) : (s.writeFlags src alu).platform = s.platform := rfl
@[simp] theorem State.writeFlags_bus (src : FlagSources) (alu : Flags) : (s.writeFlags src alu).bus = s.bus := rfl

/-! ### complete -/

@[simp] theorem State.complete_regs (i : Instr) (w : Word) (taken : Bool) : (s.complete i w taken).regs = s.regs := rfl
@[simp] theorem State.complete_sp (i : Instr) (w : Word) (taken : Bool) : (s.complete i w taken).sp = s.sp := rfl
@[simp] theorem State.complete_ime (i : Instr) (w : Word) (taken : Bool) : (s.complete i w taken).ime = s.ime := rfl
@[simp] theorem State.complete_ie (i : Instr) (w : Word) (taken : Bool) : (s.complete i w taken).ie = s.ie := rfl
@[simp] theorem State.complete_iflag (i : Instr) (w : Word) (taken : Bool) : (s.complete i w taken).iflag = s.iflag := rfl
@[simp] theorem State.complete_mem (i : Instr) (w : Word) (taken : Bool) : (s.complete i w taken).mem = s.mem := rfl
@[simp] theorem State.complete_fault (i : Instr) (w : Word) (taken : Bool) : (s.complete i w taken).fault = s.fault := rfl
@[simp] theorem State.complete_cycle (i : Instr) (w : Word) (taken : Bool) : (s.complete i w taken).cycle = s.cycle := rfl
@[simp] theorem State.complete_env (i : Instr) (w : Word) (taken : Bool) : (s.complete i w taken).env = s.env := rfl
@[simp] theorem State.complete_platform (i : Instr) (w : Word) (taken : Bool) : (s.complete i w taken).platform = s.platform := rfl
@[simp] theorem State.complete_bus (i : Instr) (w : Word) (taken : Bool) : (s.complete i w taken).bus = s.bus := rfl
@[simp] theorem State.complete_pc (i : Instr) (w : Word) (taken : Bool) : (s.complete i w taken).pc = w := rfl
@[simp] theorem State.complete_sched (i : Instr) (w : Word) (taken : Bool) :
    (s.complete i w taken).sched = s.sched.map fun n => n + (i.cycles + if taken then i.extraCycles else 0) := rfl

/-! ### retire -/

@[simp] theorem State.retire_regs (i : Instr) : (s.retire i).regs = s.regs := rfl
@[simp] theorem State.retire_sp (i : Instr) : (s.retire i).sp = s.sp := rfl
@[simp] theorem State.retire_ime (i : Instr) : (s.retire i).ime = s.ime := rfl
@[simp] theorem State.retire_ie (i : Instr) : (s.retire i).ie = s.ie := rfl
@[simp] theorem State.retire_iflag (i : Instr) : (s.retire i).iflag = s.iflag := rfl
@[simp] theorem State.retire_mem (i : Instr) : (s.retire i).mem = s.mem := rfl
@[simp] theorem State.retire_fault (i : Instr) : (s.retire i).fault = s.fault := rfl
@[simp] theorem State.retire_cycle (i : Instr) : (s.retire i).cycle = s.cycle := rfl
@[simp] theorem State.retire_env (i : Instr) : (s.retire i).env = s.env := rfl
@[simp] theorem State.retire_platform (i : Instr) : (s.retire i).platform = s.platform := rfl
@[simp] theorem State.retire_bus (i : Instr) : (s.retire i).bus = s.bus := rfl
@[simp] theorem State.retire_pc (i : Instr) : (s.retire i).pc = s.pc + BitVec.ofNat 16 i.length := rfl
@[simp] theorem State.retire_sched (i : Instr) : (s.retire i).sched = s.sched.map fun n => n + i.cycles := rfl

/-! ### raise -/

@[simp] theorem State.raise_regs (f : Fault) : (s.raise f).regs = s.regs := rfl
@[simp] theorem State.raise_sp (f : Fault) : (s.raise f).sp = s.sp := rfl
@[simp] theorem State.raise_pc (f : Fault) : (s.raise f).pc = s.pc := rfl
@[simp] theorem State.raise_ime (f : Fault) : (s.raise f).ime = s.ime := rfl
@[simp] theorem State.raise_ie (f : Fault) : (s.raise f).ie = s.ie := rfl
@[simp] theorem State.raise_iflag (f : Fault) : (s.raise f).iflag = s.iflag := rfl
@[simp] theorem State.raise_mem (f : Fault) : (s.raise f).mem = s.mem := rfl
@[simp] theorem State.raise_sched (f : Fault) : (s.raise f).sched = s.sched := rfl
@[simp] theorem State.raise_cycle (f : Fault) : (s.raise f).cycle = s.cycle := rfl
@[simp] theorem State.raise_env (f : Fault) : (s.raise f).env = s.env := rfl
@[simp] theorem State.raise_platform (f : Fault) : (s.raise f).platform = s.platform := rfl
@[simp] theorem State.raise_bus (f : Fault) : (s.raise f).bus = s.bus := rfl
@[simp] theorem State.raise_fault (f : Fault) : (s.raise f).fault = some f := rfl

/-! ### store -/

@[simp] theorem State.store_regs (a : Word) (v : Byte) :
    (s.store a v).regs = s.regs := by unfold State.store; split_ifs <;> rfl
@[simp] theorem State.store_sp (a : Word) (v : Byte) :
    (s.store a v).sp = s.sp := by unfold State.store; split_ifs <;> rfl
@[simp] theorem State.store_pc (a : Word) (v : Byte) :
    (s.store a v).pc = s.pc := by unfold State.store; split_ifs <;> rfl
@[simp] theorem State.store_ime (a : Word) (v : Byte) :
    (s.store a v).ime = s.ime := by unfold State.store; split_ifs <;> rfl
@[simp] theorem State.store_sched (a : Word) (v : Byte) :
    (s.store a v).sched = s.sched := by unfold State.store; split_ifs <;> rfl
@[simp] theorem State.store_fault (a : Word) (v : Byte) :
    (s.store a v).fault = s.fault := by unfold State.store; split_ifs <;> rfl
@[simp] theorem State.store_cycle (a : Word) (v : Byte) :
    (s.store a v).cycle = s.cycle := by unfold State.store; split_ifs <;> rfl
@[simp] theorem State.store_env (a : Word) (v : Byte) :
    (s.store a v).env = s.env := by unfold State.store; split_ifs <;> rfl
@[simp] theorem State.store_platform (a : Word) (v : Byte) :
    (s.store a v).platform = s.platform := by unfold State.store; split_ifs <;> rfl
@[simp] theorem State.store_bus (a : Word) (v : Byte) :
    (s.store a v).bus = s.bus := by unfold State.store; split_ifs <;> rfl
@[simp] theorem State.store_ie (a : Word) (v : Byte) : (s.store a v).ie = if a = ieAddr then v else s.ie := by
  unfold State.store; split_ifs <;> rfl
@[simp] theorem State.store_iflag (a : Word) (v : Byte) :
    (s.store a v).iflag = if a = ifAddr then v else s.iflag := by
  by_cases h : a = ieAddr
  · subst h; simp [State.store, ieAddr, ifAddr]
  · unfold State.store; split_ifs <;> rfl

/-! ### memRead -/

@[simp] theorem State.memRead_regs (a : Word) : (s.memRead a).2.regs = s.regs := rfl
@[simp] theorem State.memRead_sp (a : Word) : (s.memRead a).2.sp = s.sp := rfl
@[simp] theorem State.memRead_pc (a : Word) : (s.memRead a).2.pc = s.pc := rfl
@[simp] theorem State.memRead_ime (a : Word) : (s.memRead a).2.ime = s.ime := rfl
@[simp] theorem State.memRead_ie (a : Word) : (s.memRead a).2.ie = s.ie := rfl
@[simp] theorem State.memRead_iflag (a : Word) : (s.memRead a).2.iflag = s.iflag := rfl
@[simp] theorem State.memRead_mem (a : Word) : (s.memRead a).2.mem = s.mem := rfl
@[simp] theorem State.memRead_sched (a : Word) : (s.memRead a).2.sched = s.sched := rfl
@[simp] theorem State.memRead_fault (a : Word) : (s.memRead a).2.fault = s.fault := rfl
@[simp] theorem State.memRead_cycle (a : Word) : (s.memRead a).2.cycle = s.cycle := rfl
@[simp] theorem State.memRead_env (a : Word) : (s.memRead a).2.env = s.env := rfl
@[simp] theorem State.memRead_platform (a : Word) : (s.memRead a).2.platform = s.platform := rfl
@[simp] theorem State.memRead_fst (a : Word) : (s.memRead a).1 = s.answer a := rfl
@[simp] theorem State.memRead_bus (a : Word) : (s.memRead a).2.bus = .read a (s.answer a) :: s.bus := rfl

/-! ### memWrite -/

@[simp] theorem State.memWrite_regs (a : Word) (v : Byte) : (s.memWrite a v).regs = s.regs := by simp [State.memWrite]
@[simp] theorem State.memWrite_sp (a : Word) (v : Byte) : (s.memWrite a v).sp = s.sp := by simp [State.memWrite]
@[simp] theorem State.memWrite_pc (a : Word) (v : Byte) : (s.memWrite a v).pc = s.pc := by simp [State.memWrite]
@[simp] theorem State.memWrite_ime (a : Word) (v : Byte) : (s.memWrite a v).ime = s.ime := by simp [State.memWrite]
@[simp] theorem State.memWrite_sched (a : Word) (v : Byte) : (s.memWrite a v).sched = s.sched := by simp [State.memWrite]
@[simp] theorem State.memWrite_fault (a : Word) (v : Byte) : (s.memWrite a v).fault = s.fault := by simp [State.memWrite]
@[simp] theorem State.memWrite_cycle (a : Word) (v : Byte) : (s.memWrite a v).cycle = s.cycle := by simp [State.memWrite]
@[simp] theorem State.memWrite_env (a : Word) (v : Byte) : (s.memWrite a v).env = s.env := by simp [State.memWrite]
@[simp] theorem State.memWrite_platform (a : Word) (v : Byte) : (s.memWrite a v).platform = s.platform := by simp [State.memWrite]
@[simp] theorem State.memWrite_bus (a : Word) (v : Byte) : (s.memWrite a v).bus = .write a v :: s.bus := by
  simp [State.memWrite]
@[simp] theorem State.memWrite_ie (a : Word) (v : Byte) : (s.memWrite a v).ie = if a = ieAddr then v else s.ie := by
  simp [State.memWrite]
@[simp] theorem State.memWrite_iflag (a : Word) (v : Byte) :
    (s.memWrite a v).iflag = if a = ifAddr then v else s.iflag := by
  simp [State.memWrite]

/-! ### memRead16 -/

@[simp] theorem State.memRead16_regs (a : Word) : (s.memRead16 a).2.regs = s.regs := rfl
@[simp] theorem State.memRead16_sp (a : Word) : (s.memRead16 a).2.sp = s.sp := rfl
@[simp] theorem State.memRead16_pc (a : Word) : (s.memRead16 a).2.pc = s.pc := rfl
@[simp] theorem State.memRead16_ime (a : Word) : (s.memRead16 a).2.ime = s.ime := rfl
@[simp] theorem State.memRead16_ie (a : Word) : (s.memRead16 a).2.ie = s.ie := rfl
@[simp] theorem State.memRead16_iflag (a : Word) : (s.memRead16 a).2.iflag = s.iflag := rfl
@[simp] theorem State.memRead16_mem (a : Word) : (s.memRead16 a).2.mem = s.mem := rfl
@[simp] theorem State.memRead16_sched (a : Word) : (s.memRead16 a).2.sched = s.sched := rfl
@[simp] theorem State.memRead16_fault (a : Word) : (s.memRead16 a).2.fault = s.fault := rfl
@[simp] theorem State.memRead16_cycle (a : Word) : (s.memRead16 a).2.cycle = s.cycle := rfl
@[simp] theorem State.memRead16_env (a : Word) : (s.memRead16 a).2.env = s.env := rfl
@[simp] theorem State.memRead16_platform (a : Word) : (s.memRead16 a).2.platform = s.platform := rfl

/-! ### memWrite16 -/

@[simp] theorem State.memWrite16_regs (a v : Word) : (s.memWrite16 a v).regs = s.regs := by simp [State.memWrite16]
@[simp] theorem State.memWrite16_sp (a v : Word) : (s.memWrite16 a v).sp = s.sp := by simp [State.memWrite16]
@[simp] theorem State.memWrite16_pc (a v : Word) : (s.memWrite16 a v).pc = s.pc := by simp [State.memWrite16]
@[simp] theorem State.memWrite16_ime (a v : Word) : (s.memWrite16 a v).ime = s.ime := by simp [State.memWrite16]
@[simp] theorem State.memWrite16_sched (a v : Word) : (s.memWrite16 a v).sched = s.sched := by simp [State.memWrite16]
@[simp] theorem State.memWrite16_fault (a v : Word) : (s.memWrite16 a v).fault = s.fault := by simp [State.memWrite16]
@[simp] theorem State.memWrite16_cycle (a v : Word) : (s.memWrite16 a v).cycle = s.cycle := by simp [State.memWrite16]
@[simp] theorem State.memWrite16_env (a v : Word) : (s.memWrite16 a v).env = s.env := by simp [State.memWrite16]
@[simp] theorem State.memWrite16_platform (a v : Word) : (s.memWrite16 a v).platform = s.platform := by simp [State.memWrite16]
@[simp] theorem State.memWrite16_bus (a v : Word) :
    (s.memWrite16 a v).bus = .write (a + 1) (hiByte v) :: .write a (loByte v) :: s.bus := by
  simp [State.memWrite16]

/-! ### push16 -/

@[simp] theorem State.push16_regs (v : Word) : (s.push16 v).regs = s.regs := by simp [State.push16]
@[simp] theorem State.push16_pc (v : Word) : (s.push16 v).pc = s.pc := by simp [State.push16]
@[simp] theorem State.push16_ime (v : Word) : (s.push16 v).ime = s.ime := by simp [State.push16]
@[simp] theorem State.push16_sched (v : Word) : (s.push16 v).sched = s.sched := by simp [State.push16]
@[simp] theorem State.push16_fault (v : Word) : (s.push16 v).fault = s.fault := by simp [State.push16]
@[simp] theorem State.push16_cycle (v : Word) : (s.push16 v).cycle = s.cycle := by simp [State.push16]
@[simp] theorem State.push16_env (v : Word) : (s.push16 v).env = s.env := by simp [State.push16]
@[simp] theorem State.push16_platform (v : Word) : (s.push16 v).platform = s.platform := by simp [State.push16]
@[simp] theorem State.push16_sp (v : Word) : (s.push16 v).sp = s.sp - 2 := by simp [State.push16]
@[simp] theorem State.push16_bus (v : Word) :
    (s.push16 v).bus = .write (s.sp - 1) (hiByte v) :: .write (s.sp - 2) (loByte v) :: s.bus := by
  simp [State.push16]
  bv_omega

/-! ### pop16 -/

@[simp] theorem State.pop16_regs : (s.pop16).2.regs = s.regs := rfl
@[simp] theorem State.pop16_pc : (s.pop16).2.pc = s.pc := rfl
@[simp] theorem State.pop16_ime : (s.pop16).2.ime = s.ime := rfl
@[simp] theorem State.pop16_ie : (s.pop16).2.ie = s.ie := rfl
@[simp] theorem State.pop16_iflag : (s.pop16).2.iflag = s.iflag := rfl
@[simp] theorem State.pop16_mem : (s.pop16).2.mem = s.mem := rfl
@[simp] theorem State.pop16_sched : (s.pop16).2.sched = s.sched := rfl
@[simp] theorem State.pop16_fault : (s.pop16).2.fault = s.fault := rfl
@[simp] theorem State.pop16_cycle : (s.pop16).2.cycle = s.cycle := rfl
@[simp] theorem State.pop16_env : (s.pop16).2.env = s.env := rfl
@[simp] theorem State.pop16_platform : (s.pop16).2.platform = s.platform := rfl
@[simp] theorem State.pop16_sp : s.pop16.2.sp = s.sp + 2 := rfl

/-! ### Derived operations, in terms of the ones above -/

@[simp] theorem State.setR8_eq (r : R8) (v : Byte) : s.setR8 r v = s.setReg r.toReg v := rfl
@[simp] theorem State.r8_eq (r : R8) : s.r8 r = s.reg r.toReg := rfl
@[simp] theorem State.hlAddr_eq : s.hlAddr = s.pair .hl := rfl
@[simp] theorem State.readHL_eq : s.readHL = s.memRead (s.pair .hl) := rfl
@[simp] theorem State.setAccumulator_eq (alu : Alu8) :
    s.setAccumulator alu = (s.setReg .a alu.v).writeFlags .fromAlu alu.flags := rfl
@[simp] theorem State.updateR8_eq (r : R8) (alu : Alu8) (src : FlagSources) :
    s.updateR8 r alu src = (s.setReg r.toReg alu.v).writeFlags src alu.flags := rfl
@[simp] theorem State.updateHL_eq (alu : Alu8) (src : FlagSources) :
    s.updateHL alu src = (s.memWrite (s.pair .hl) alu.v).writeFlags src alu.flags := rfl
@[simp] theorem State.loadA_eq (a : Word) : s.loadA a = (s.memRead a).2.setReg .a (s.answer a) := rfl
@[simp] theorem State.storeA_eq (a : Word) : s.storeA a = s.memWrite a (s.reg .a) := rfl
@[simp] theorem State.call_eq (i : Instr) (w : Word) (taken : Bool) :
    s.call i w taken = (s.push16 (s.nextPC i)).complete i w taken := rfl
@[simp] theorem State.popToPC_eq (i : Instr) (taken : Bool) :
    s.popToPC i taken = s.pop16.2.complete i s.pop16.1 taken := rfl
@[simp] theorem State.returnFromInterrupt_eq : s.returnFromInterrupt = State.pop16 { s with ime := true } := rfl
@[simp] theorem State.nextPC_eq (i : Instr) : s.nextPC i = s.pc + BitVec.ofNat 16 i.length := rfl

end Sys2Proof.Machine
end

