-- ==== Sys2Proof/Laws/Registers.lean ====
section
/-! SUPPORT. The register file, the pairs and the flags: read after write, and what an operation elsewhere leaves. -/

namespace Sys2Proof.Machine

variable (s : State)

theorem RegFile.get_set (rf : RegFile) (r q : Reg) (v : Byte) :
    (rf.set r v).get q = if q = r then v else rf.get q := by
  cases r <;> cases q <;> rfl

/-- Registers are read through `regs` alone: an operation that keeps `regs` keeps every register. -/
theorem State.reg_of_regs {s t : State} (h : t.regs = s.regs) (r : Reg) : t.reg r = s.reg r := by
  simp [State.reg, h]

@[simp] theorem State.reg_setReg (r q : Reg) (v : Byte) : (s.setReg r v).reg q = if q = r then v else s.reg q :=
  RegFile.get_set _ _ _ _

@[simp] theorem State.reg_store (a : Word) (v : Byte) (r : Reg) : (s.store a v).reg r = s.reg r :=
  State.reg_of_regs (s.store_regs a v) r
@[simp] theorem State.reg_memRead (a : Word) (r : Reg) : (s.memRead a).2.reg r = s.reg r := rfl
@[simp] theorem State.reg_memWrite (a : Word) (v : Byte) (r : Reg) : (s.memWrite a v).reg r = s.reg r :=
  State.reg_of_regs (s.memWrite_regs a v) r
@[simp] theorem State.reg_memRead16 (a : Word) (r : Reg) : (s.memRead16 a).2.reg r = s.reg r := rfl
@[simp] theorem State.reg_memWrite16 (a v : Word) (r : Reg) : (s.memWrite16 a v).reg r = s.reg r :=
  State.reg_of_regs (s.memWrite16_regs a v) r
@[simp] theorem State.reg_push16 (v : Word) (r : Reg) : (s.push16 v).reg r = s.reg r :=
  State.reg_of_regs (s.push16_regs v) r
@[simp] theorem State.reg_pop16 (r : Reg) : s.pop16.2.reg r = s.reg r := rfl
@[simp] theorem State.reg_complete (i : Instr) (w : Word) (b : Bool) (r : Reg) :
    (s.complete i w b).reg r = s.reg r := rfl
@[simp] theorem State.reg_retire (i : Instr) (r : Reg) : (s.retire i).reg r = s.reg r := rfl
@[simp] theorem State.reg_raise (f : Fault) (r : Reg) : (s.raise f).reg r = s.reg r := rfl

@[simp] theorem byte_and_ff (v : Byte) : v &&& 0xFF#8 = v := BitVec.and_allOnes

theorem State.reg_setPair (p : Pair) (v : Word) (r : Reg) :
    (s.setPair p v).reg r =
      if r = p.lo then loByte v &&& p.loMask else if r = p.hi then hiByte v else s.reg r := by
  simp [State.setPair]

@[simp] theorem State.reg_setPairSP (p : Pair) (v : Word) (r : Reg) :
    (s.setPairSP p v).reg r = if p = .af then s.reg r else (s.setPair p v).reg r := by
  cases p <;> rfl

/-! An update of SP, PC, IME, IF or sched leaves the register file. -/
@[simp] theorem State.reg_withSp (w : Word) (r : Reg) : ({ s with sp := w } : State).reg r = s.reg r := rfl
@[simp] theorem State.reg_withIme (b : Bool) (r : Reg) : ({ s with ime := b } : State).reg r = s.reg r := rfl
@[simp] theorem State.reg_withSched (n : Option Nat) (r : Reg) : ({ s with sched := n } : State).reg r = s.reg r := rfl
@[simp] theorem State.pair_withSp (w : Word) (p : Pair) : ({ s with sp := w } : State).pair p = s.pair p := rfl
@[simp] theorem State.pair_withIme (b : Bool) (p : Pair) : ({ s with ime := b } : State).pair p = s.pair p := rfl

@[simp] theorem R8.toReg_ne_f (r : R8) : r.toReg ≠ .f := by cases r <;> decide

@[simp] theorem R8.toReg_a : R8.a.toReg = .a := rfl

@[simp] theorem R8.f_ne_toReg (r : R8) : .f ≠ r.toReg := fun h => R8.toReg_ne_f r h.symm

theorem R8.toReg_injective {r q : R8} (h : r.toReg = q.toReg) : r = q := by
  cases r <;> cases q <;> first | rfl | cases h

theorem joinBytes_getLsbD (x y : Byte) (i : Nat) :
    (joinBytes x y).getLsbD i = if i < 8 then y.getLsbD i else x.getLsbD (i - 8) :=
  BitVec.getLsbD_append

@[simp] theorem hiByte_joinBytes (x y : Byte) : hiByte (joinBytes x y) = x := by
  ext i hi
  simp [hiByte, joinBytes_getLsbD, BitVec.getLsbD_eq_getElem hi]

@[simp] theorem loByte_joinBytes (x y : Byte) : loByte (joinBytes x y) = y := by
  ext i hi
  simp [loByte, joinBytes_getLsbD, hi]

@[simp] theorem joinBytes_hiByte_loByte (v : Word) : joinBytes (hiByte v) (loByte v) = v := by
  simp only [hiByte, loByte, joinBytes]
  ext i hi
  simp only [BitVec.getElem_append, BitVec.getElem_extractLsb']
  split
  · simp [BitVec.getLsbD_eq_getElem hi]
  · rw [show 8 + (i - 8) = i by omega, BitVec.getLsbD_eq_getElem hi]

/-- Reading a pair just written gives the value back; AF without the low nibble (R23, R24). -/
theorem State.pair_setPair (p : Pair) (v : Word) :
    (s.setPair p v).pair p = joinBytes (hiByte v) (loByte v &&& p.loMask) := by
  cases p <;> simp [State.pair, State.setPair, Pair.hi, Pair.lo, Pair.loMask, BitVec.and_assoc]

@[simp] theorem State.pair_memRead (a : Word) (p : Pair) : (s.memRead a).2.pair p = s.pair p := rfl
@[simp] theorem State.pair_memWrite (a : Word) (v : Byte) (p : Pair) : (s.memWrite a v).pair p = s.pair p := by
  simp [State.pair]
@[simp] theorem State.pair_push16 (v : Word) (p : Pair) : (s.push16 v).pair p = s.pair p := by
  simp [State.pair]

/-! ### Flags -/

theorem testBit_flagByte (z n h c : Bool) :
    testBit (flagByte z n h c) 7 = z ∧ testBit (flagByte z n h c) 6 = n ∧
      testBit (flagByte z n h c) 5 = h ∧ testBit (flagByte z n h c) 4 = c ∧ flagByte z n h c &&& 0x0F = 0 := by
  cases z <;> cases n <;> cases h <;> cases c <;> decide

@[simp] theorem State.reg_writeFlags (src : FlagSources) (alu : Flags) (r : Reg) :
    (s.writeFlags src alu).reg r = if r = .f then
      flagByte (src.z.pick alu.z s.flagZ) (src.n.pick alu.n s.flagN) (src.h.pick alu.h s.flagH)
        (src.c.pick alu.c s.flagC) else s.reg r := by
  simp [State.writeFlags]

/-- What `writeFlags` does to each flag, and that bits 3:0 of F end at 0 (R159, R141). -/
theorem State.writeFlags_flags (src : FlagSources) (alu : Flags) :
    (s.writeFlags src alu).flagZ = src.z.pick alu.z s.flagZ ∧
      (s.writeFlags src alu).flagN = src.n.pick alu.n s.flagN ∧
      (s.writeFlags src alu).flagH = src.h.pick alu.h s.flagH ∧
      (s.writeFlags src alu).flagC = src.c.pick alu.c s.flagC ∧ (s.writeFlags src alu).FlagsClean := by
  simpa [State.flagZ, State.flagN, State.flagH, State.flagC, State.FlagsClean] using testBit_flagByte _ _ _ _

@[simp] theorem State.flagZ_setR8 (r : R8) (v : Byte) : (s.setReg r.toReg v).flagZ = s.flagZ := by simp [State.flagZ]
@[simp] theorem State.flagN_setR8 (r : R8) (v : Byte) : (s.setReg r.toReg v).flagN = s.flagN := by simp [State.flagN]
@[simp] theorem State.flagH_setR8 (r : R8) (v : Byte) : (s.setReg r.toReg v).flagH = s.flagH := by simp [State.flagH]
@[simp] theorem State.flagC_setR8 (r : R8) (v : Byte) : (s.setReg r.toReg v).flagC = s.flagC := by simp [State.flagC]
@[simp] theorem State.flagZ_setA (v : Byte) : (s.setReg .a v).flagZ = s.flagZ := rfl
@[simp] theorem State.flagZ_setHL (v : Word) : (s.setPair .hl v).flagZ = s.flagZ := rfl
@[simp] theorem State.flagN_setA (v : Byte) : (s.setReg .a v).flagN = s.flagN := rfl
@[simp] theorem State.flagN_setHL (v : Word) : (s.setPair .hl v).flagN = s.flagN := rfl
@[simp] theorem State.flagH_setA (v : Byte) : (s.setReg .a v).flagH = s.flagH := rfl
@[simp] theorem State.flagH_setHL (v : Word) : (s.setPair .hl v).flagH = s.flagH := rfl
@[simp] theorem State.flagC_setA (v : Byte) : (s.setReg .a v).flagC = s.flagC := rfl
@[simp] theorem State.flagC_setHL (v : Word) : (s.setPair .hl v).flagC = s.flagC := rfl
@[simp] theorem State.flagZ_memRead (a : Word) : (s.memRead a).2.flagZ = s.flagZ := rfl
@[simp] theorem State.flagN_memRead (a : Word) : (s.memRead a).2.flagN = s.flagN := rfl
@[simp] theorem State.flagH_memRead (a : Word) : (s.memRead a).2.flagH = s.flagH := rfl
@[simp] theorem State.flagC_memRead (a : Word) : (s.memRead a).2.flagC = s.flagC := rfl
@[simp] theorem State.flagC_memWrite (a : Word) (v : Byte) : (s.memWrite a v).flagC = s.flagC := by simp [State.flagC]

theorem State.flags_of_f {s t : State} (h : t.reg .f = s.reg .f) :
    t.flagZ = s.flagZ ∧ t.flagN = s.flagN ∧ t.flagH = s.flagH ∧ t.flagC = s.flagC := by
  simp [State.flagZ, State.flagN, State.flagH, State.flagC, h]

end Sys2Proof.Machine
end

