-- ==== Sys2Proof/Laws/Memory.lean ====
section
/-! SUPPORT. Memory in canonical form: read after write, a write elsewhere, and that writes keep the form; then the same for
the bytes held behind the bus. -/

namespace Sys2Proof.Machine

namespace Memory

@[simp] theorem read_nil (k : Nat) : Memory.read [] k = unlisted := rfl

theorem read_cons (a k : Nat) (v : Byte) (m : Memory) :
    Memory.read ((a, v) :: m) k = if a = k then v else Memory.read m k := rfl

theorem wfFrom_cons {lo a : Nat} {v : Byte} {m : Memory} :
    Memory.wfFrom lo ((a, v) :: m) = true ↔ lo ≤ a ∧ a < 65536 ∧ v ≠ unlisted ∧ Memory.wfFrom (a + 1) m = true := by
  simp [Memory.wfFrom, and_assoc]

theorem wfFrom_mono {lo hi : Nat} {m : Memory} (h : Memory.wfFrom hi m = true) (hle : lo ≤ hi) :
    Memory.wfFrom lo m = true := by
  cases m with
  | nil => rfl
  | cons c rest =>
    obtain ⟨ha, hb, hv, hr⟩ := wfFrom_cons.mp h
    exact wfFrom_cons.mpr ⟨by omega, hb, hv, hr⟩

/-- Below the first key nothing is listed. -/
theorem read_below {lo k : Nat} {m : Memory} (h : Memory.wfFrom lo m = true) (hk : k < lo) : Memory.read m k = unlisted := by
  induction m generalizing lo with
  | nil => rfl
  | cons c rest ih =>
    obtain ⟨ha, _, _, hr⟩ := wfFrom_cons.mp h
    rw [read_cons, if_neg (by omega)]
    exact ih hr (by omega)

/-- A write at another key changes nothing, whatever the list. -/
theorem read_write_other (m : Memory) {j k : Nat} (v : Byte) (hne : j ≠ k) :
    Memory.read (Memory.write m k v) j = Memory.read m j := by
  induction m with
  | nil =>
    unfold Memory.write
    split_ifs <;> simp [read_cons, Ne.symm hne]
  | cons c rest ih =>
    obtain ⟨a, w⟩ := c
    unfold Memory.write
    split_ifs with hlt hv heq hv
    · rfl
    · simp [read_cons, Ne.symm hne]
    · subst heq; simp [read_cons, Ne.symm hne]
    · subst heq; simp [read_cons, Ne.symm hne]
    · simp [read_cons, ih]

/-- Reading what was written, in a canonical memory. -/
theorem read_write_same {lo : Nat} {m : Memory} (h : Memory.wfFrom lo m = true) (k : Nat) (v : Byte) :
    Memory.read (Memory.write m k v) k = v := by
  induction m generalizing lo with
  | nil =>
    unfold Memory.write
    split_ifs with hv
    · simp [hv]
    · simp [read_cons]
  | cons c rest ih =>
    obtain ⟨a, w⟩ := c
    obtain ⟨_, _, _, hr⟩ := wfFrom_cons.mp h
    unfold Memory.write
    split_ifs with hlt hv heq hv
    · subst hv
      rw [read_cons, if_neg (by omega)]
      exact read_below hr (by omega)
    · simp [read_cons]
    · subst hv heq
      exact read_below hr (by omega)
    · simp [read_cons]
    · rw [read_cons, if_neg (by omega)]
      exact ih hr

/-- A write keeps the canonical form. -/
theorem wfFrom_write {lo : Nat} {m : Memory} (h : Memory.wfFrom lo m = true) {k : Nat} (hlo : lo ≤ k) (hk : k < 65536)
    (v : Byte) : Memory.wfFrom lo (Memory.write m k v) = true := by
  induction m generalizing lo with
  | nil =>
    unfold Memory.write
    split_ifs with hv
    · rfl
    · exact wfFrom_cons.mpr ⟨hlo, hk, hv, rfl⟩
  | cons c rest ih =>
    obtain ⟨a, w⟩ := c
    obtain ⟨ha, hb, hw, hr⟩ := wfFrom_cons.mp h
    unfold Memory.write
    split_ifs with hlt hv heq hv
    · exact h
    · exact wfFrom_cons.mpr ⟨hlo, hk, hv, wfFrom_cons.mpr ⟨by omega, hb, hw, hr⟩⟩
    · exact wfFrom_mono hr (by omega)
    · exact wfFrom_cons.mpr ⟨hlo, hk, hv, by subst heq; exact hr⟩
    · exact wfFrom_cons.mpr ⟨ha, hb, hw, ih hr (by omega)⟩

end Memory

variable (s : State)

theorem ieAddr_ne_ifAddr : ieAddr ≠ ifAddr := by decide

theorem inHram_ne {a : Word} (h : inHram a = true) : a ≠ ieAddr ∧ a ≠ ifAddr := by
  constructor <;> rintro rfl <;> revert h <;> decide

/-- A byte held elsewhere is left alone by a write (R65). -/
theorem State.stored_store_other {a b : Word} (v : Byte) (hne : b ≠ a) : (s.store a v).stored b = s.stored b := by
  have hk : b.toNat ≠ a.toNat := fun h => hne (BitVec.eq_of_toNat_eq h)
  have hm := Memory.read_write_other s.mem v hk
  unfold State.store
  split_ifs with h1 h2 h3
  · simp [State.stored, ← h1, hne]
  · have h4 : b ≠ ifAddr := fun h => hne (h.trans h2.symm)
    simp [State.stored, h4]
  · simp [State.stored, hm]
  · rfl

/-- A written byte is held, at an address of the CORE or of RAM (R62, R65). -/
theorem State.stored_store_same (h : s.mem.wf = true) {a : Word} (v : Byte) (hold : s.holds a = true) :
    (s.store a v).stored a = v := by
  have hm := Memory.read_write_same h a.toNat v
  unfold State.store
  split_ifs with h1 h2 h3
  · simp [State.stored, h1]
  · subst h2; simp [State.stored, ieAddr_ne_ifAddr.symm]
  · simp [State.stored, h1, h2, hm]
  · simp_all [State.holds, coreClaims]

/-- A write that nothing holds changes nothing (R62, R76). -/
theorem State.store_unheld {a : Word} (v : Byte) (h : s.holds a = false) : s.store a v = s := by
  unfold State.store
  split_ifs <;> simp_all [State.holds, coreClaims]

/-- Everything a write does to what is held: at its own address the value, where that is held; elsewhere nothing. -/
theorem State.stored_store (h : s.mem.wf = true) (a : Word) (v : Byte) (b : Word) :
    (s.store a v).stored b = if b = a then (if s.holds a then v else s.stored a) else s.stored b := by
  split_ifs with hb hh
  · subst hb; exact State.stored_store_same s h v hh
  · subst hb; rw [State.store_unheld s v (by simpa using hh)]
  · exact State.stored_store_other s v hb

/-- A write keeps memory canonical and the latches' keys unused. -/
theorem State.memClean_store (h : s.MemClean) (a : Word) (v : Byte) : (s.store a v).MemClean := by
  obtain ⟨hw, hie, hif⟩ := h
  unfold State.store
  split_ifs with h1 h2 h3
  · exact ⟨hw, hie, hif⟩
  · exact ⟨hw, hie, hif⟩
  · have k1 : ieAddr.toNat ≠ a.toNat := fun h => h1 (BitVec.eq_of_toNat_eq h).symm
    have k2 : ifAddr.toNat ≠ a.toNat := fun h => h2 (BitVec.eq_of_toNat_eq h).symm
    exact ⟨Memory.wfFrom_write hw (by omega) a.isLt v, by rw [← hie]; exact Memory.read_write_other _ _ k1,
      by rw [← hif]; exact Memory.read_write_other _ _ k2⟩
  · exact ⟨hw, hie, hif⟩

/-- What is held depends on the latches and memory alone. -/
theorem State.stored_congr {s t : State} (h1 : t.ie = s.ie) (h2 : t.iflag = s.iflag) (h3 : t.mem = s.mem) (a : Word) :
    t.stored a = s.stored a := by
  simp [State.stored, h1, h2, h3]

theorem State.memClean_congr {s t : State} (h : t.mem = s.mem) : t.MemClean ↔ s.MemClean := by
  simp [State.MemClean, h]

@[simp] theorem State.stored_setReg (r : Reg) (v : Byte) (a : Word) : (s.setReg r v).stored a = s.stored a := rfl
@[simp] theorem State.stored_setPair (p : Pair) (v a : Word) : (s.setPair p v).stored a = s.stored a := rfl
@[simp] theorem State.stored_setPairSP (p : Pair) (v a : Word) : (s.setPairSP p v).stored a = s.stored a := by
  cases p <;> rfl
@[simp] theorem State.stored_writeFlags (src : FlagSources) (alu : Flags) (a : Word) :
    (s.writeFlags src alu).stored a = s.stored a := rfl
@[simp] theorem State.stored_complete (i : Instr) (w : Word) (b : Bool) (a : Word) :
    (s.complete i w b).stored a = s.stored a := rfl
@[simp] theorem State.stored_retire (i : Instr) (a : Word) : (s.retire i).stored a = s.stored a := rfl
@[simp] theorem State.stored_raise (f : Fault) (a : Word) : (s.raise f).stored a = s.stored a := rfl
@[simp] theorem State.stored_memRead (a b : Word) : (s.memRead a).2.stored b = s.stored b := rfl
@[simp] theorem State.stored_memRead16 (a b : Word) : (s.memRead16 a).2.stored b = s.stored b := rfl
@[simp] theorem State.stored_pop16 (a : Word) : s.pop16.2.stored a = s.stored a := rfl
@[simp] theorem State.stored_memWrite (a : Word) (v : Byte) (b : Word) :
    (s.memWrite a v).stored b = (s.store a v).stored b := rfl
@[simp] theorem State.holds_store (a : Word) (v : Byte) (b : Word) : (s.store a v).holds b = s.holds b := by
  simp [State.holds]
@[simp] theorem State.holds_memRead (a b : Word) : (s.memRead a).2.holds b = s.holds b := rfl
@[simp] theorem State.holds_memWrite (a : Word) (v : Byte) (b : Word) : (s.memWrite a v).holds b = s.holds b := by
  simp [State.holds]

/-- Everything a 16-bit store does to what is held: outside its two bytes nothing, at each of them the byte of the value
where it is held (R68). -/
theorem State.stored_memWrite16 (h : s.MemClean) (a v : Word) :
    (∀ b, b ≠ a → b ≠ a + 1 → (s.memWrite16 a v).stored b = s.stored b) ∧
      (s.holds a = true → (s.memWrite16 a v).stored a = loByte v) ∧
      (s.holds (a + 1) = true → (s.memWrite16 a v).stored (a + 1) = hiByte v) := by
  have hne : a ≠ a + 1 := by
    intro h
    have := congrArg BitVec.toNat h
    simp [BitVec.toNat_add] at this
    omega
  refine ⟨fun b hb hb1 => ?_, fun hh => ?_, fun hh => ?_⟩
  · rw [State.memWrite16, State.stored_memWrite, State.stored_store_other _ _ hb1, State.stored_memWrite,
      State.stored_store_other _ _ hb]
  · rw [State.memWrite16, State.stored_memWrite, State.stored_store_other _ _ hne, State.stored_memWrite,
      State.stored_store_same _ h.1 _ hh]
  · rw [State.memWrite16, State.stored_memWrite]
    exact State.stored_store_same (s.memWrite a (loByte v)) (State.memClean_store s h a _).1 _
      ((State.holds_memWrite s a _ _).trans hh)

/-- The same in one equation. -/
theorem State.stored_memWrite16_eq (h : s.MemClean) (a v b : Word) :
    (s.memWrite16 a v).stored b =
      if b = a + 1 then (if s.holds (a + 1) then hiByte v else s.stored (a + 1))
      else if b = a then (if s.holds a then loByte v else s.stored a) else s.stored b := by
  have hne : a + 1 ≠ a := by
    intro h
    have := congrArg BitVec.toNat h
    simp [BitVec.toNat_add] at this
    omega
  have h1 : (s.memWrite a (loByte v)).mem.wf = true := (State.memClean_store s h a _).1
  rw [State.memWrite16, State.stored_memWrite, State.stored_store _ h1, State.holds_memWrite, State.stored_memWrite,
    State.stored_memWrite, State.stored_store s h.1, State.stored_store s h.1, if_neg hne]

/-- A push, in one equation (R69). -/
theorem State.stored_push16 (h : s.MemClean) (v b : Word) :
    (s.push16 v).stored b =
      if b = s.sp - 1 then (if s.holds (s.sp - 1) then hiByte v else s.stored (s.sp - 1))
      else if b = s.sp - 2 then (if s.holds (s.sp - 2) then loByte v else s.stored (s.sp - 2)) else s.stored b := by
  have h1 : s.sp - 2 + 1 = s.sp - 1 := by bv_omega
  have := State.stored_memWrite16_eq { s with sp := s.sp - 2 } h (s.sp - 2) v b
  rw [h1] at this
  exact this

/-! An update of SP, IME or sched leaves what is held and what the bus answers. -/
@[simp] theorem State.stored_withSp (w a : Word) : ({ s with sp := w } : State).stored a = s.stored a := rfl
@[simp] theorem State.stored_withIme (b : Bool) (a : Word) : ({ s with ime := b } : State).stored a = s.stored a := rfl
@[simp] theorem State.stored_withSched (n : Option Nat) (a : Word) : ({ s with sched := n } : State).stored a = s.stored a := rfl
@[simp] theorem State.answer_withSp (w a : Word) : ({ s with sp := w } : State).answer a = s.answer a := rfl
@[simp] theorem State.answer_withIme (b : Bool) (a : Word) : ({ s with ime := b } : State).answer a = s.answer a := rfl
@[simp] theorem State.answer_withSched (n : Option Nat) (a : Word) : ({ s with sched := n } : State).answer a = s.answer a := rfl

/-- What a pop answers: the byte at SP below the byte at SP + 1 (R67, R70). -/
theorem State.pop16_value : s.pop16.1 = joinBytes ((s.memRead s.sp).2.answer (s.sp + 1)) (s.answer s.sp) := rfl

theorem State.pop16_bus :
    s.pop16.2.bus =
      .read (s.sp + 1) ((s.memRead s.sp).2.answer (s.sp + 1)) :: .read s.sp (s.answer s.sp) :: s.bus := rfl

theorem State.memClean_memWrite (h : s.MemClean) (a : Word) (v : Byte) : (s.memWrite a v).MemClean :=
  State.memClean_store s h a v

theorem State.memClean_memWrite16 (h : s.MemClean) (a v : Word) : (s.memWrite16 a v).MemClean :=
  State.memClean_memWrite _ (State.memClean_memWrite _ h _ _) _ _

theorem State.memClean_push16 (h : s.MemClean) (v : Word) : (s.push16 v).MemClean :=
  State.memClean_memWrite16 { s with sp := s.sp - 2 } h _ _

end Sys2Proof.Machine
end

