-- ==== Sys2Proof/Laws/Tick.lean ====
section
/-! SUPPORT. Fetching, the environment's writes, un-parking and counting: what each leaves, and what it answers. -/

namespace Sys2Proof.Machine

variable (s : State)

/-! ### The environment's writes (R418) -/

@[simp] theorem applyDue_regs (now : Nat) (ws : List EnvWrite) : (applyDue now ws s).regs = s.regs := by
  induction ws generalizing s with
  | nil => rfl
  | cons w rest ih =>
    unfold applyDue
    split
    · rw [ih, State.store_regs]
    · rfl

@[simp] theorem applyDue_sp (now : Nat) (ws : List EnvWrite) : (applyDue now ws s).sp = s.sp := by
  induction ws generalizing s with
  | nil => rfl
  | cons w rest ih =>
    unfold applyDue
    split
    · rw [ih, State.store_sp]
    · rfl

@[simp] theorem applyDue_pc (now : Nat) (ws : List EnvWrite) : (applyDue now ws s).pc = s.pc := by
  induction ws generalizing s with
  | nil => rfl
  | cons w rest ih =>
    unfold applyDue
    split
    · rw [ih, State.store_pc]
    · rfl

@[simp] theorem applyDue_ime (now : Nat) (ws : List EnvWrite) : (applyDue now ws s).ime = s.ime := by
  induction ws generalizing s with
  | nil => rfl
  | cons w rest ih =>
    unfold applyDue
    split
    · rw [ih, State.store_ime]
    · rfl

@[simp] theorem applyDue_sched (now : Nat) (ws : List EnvWrite) : (applyDue now ws s).sched = s.sched := by
  induction ws generalizing s with
  | nil => rfl
  | cons w rest ih =>
    unfold applyDue
    split
    · rw [ih, State.store_sched]
    · rfl

@[simp] theorem applyDue_fault (now : Nat) (ws : List EnvWrite) : (applyDue now ws s).fault = s.fault := by
  induction ws generalizing s with
  | nil => rfl
  | cons w rest ih =>
    unfold applyDue
    split
    · rw [ih, State.store_fault]
    · rfl

@[simp] theorem applyDue_cycle (now : Nat) (ws : List EnvWrite) : (applyDue now ws s).cycle = s.cycle := by
  induction ws generalizing s with
  | nil => rfl
  | cons w rest ih =>
    unfold applyDue
    split
    · rw [ih, State.store_cycle]
    · rfl

@[simp] theorem applyDue_platform (now : Nat) (ws : List EnvWrite) : (applyDue now ws s).platform = s.platform := by
  induction ws generalizing s with
  | nil => rfl
  | cons w rest ih =>
    unfold applyDue
    split
    · rw [ih, State.store_platform]
    · rfl

@[simp] theorem applyDue_bus (now : Nat) (ws : List EnvWrite) : (applyDue now ws s).bus = s.bus := by
  induction ws generalizing s with
  | nil => rfl
  | cons w rest ih =>
    unfold applyDue
    split
    · rw [ih, State.store_bus]
    · rfl

/-- The environment's writes keep memory canonical. -/
theorem memClean_applyDue (now : Nat) (ws : List EnvWrite) (h : s.MemClean) : (applyDue now ws s).MemClean := by
  induction ws generalizing s with
  | nil => exact h
  | cons w rest ih =>
    unfold applyDue
    split
    · exact ih _ (State.memClean_store s h _ _)
    · exact h

/-- What is left to come is the end of the list. -/
theorem applyDue_env (now : Nat) (ws : List EnvWrite) : ∃ due, ws = due ++ (applyDue now ws s).env := by
  induction ws generalizing s with
  | nil => exact ⟨[], rfl⟩
  | cons w rest ih =>
    unfold applyDue
    split
    · obtain ⟨due, h⟩ := ih (s.store w.addr w.value)
      exact ⟨w :: due, by rw [List.cons_append, ← h]⟩
    · exact ⟨[], rfl⟩

@[simp] theorem State.takeEnv_regs : s.takeEnv.regs = s.regs := applyDue_regs s _ _
@[simp] theorem State.takeEnv_sp : s.takeEnv.sp = s.sp := applyDue_sp s _ _
@[simp] theorem State.takeEnv_pc : s.takeEnv.pc = s.pc := applyDue_pc s _ _
@[simp] theorem State.takeEnv_ime : s.takeEnv.ime = s.ime := applyDue_ime s _ _
@[simp] theorem State.takeEnv_sched : s.takeEnv.sched = s.sched := applyDue_sched s _ _
@[simp] theorem State.takeEnv_fault : s.takeEnv.fault = s.fault := applyDue_fault s _ _
@[simp] theorem State.takeEnv_cycle : s.takeEnv.cycle = s.cycle := applyDue_cycle s _ _
@[simp] theorem State.takeEnv_platform : s.takeEnv.platform = s.platform := applyDue_platform s _ _
@[simp] theorem State.takeEnv_bus : s.takeEnv.bus = s.bus := applyDue_bus s _ _

@[simp] theorem State.takeEnv_reg (r : Reg) : s.takeEnv.reg r = s.reg r := State.reg_of_regs (applyDue_regs s _ _) r

theorem State.memClean_takeEnv (h : s.MemClean) : s.takeEnv.MemClean := memClean_applyDue s _ _ h

/-- With nothing due, nothing happens. -/
theorem State.takeEnv_nil (h : s.env = []) : s.takeEnv = s := by
  cases s
  subst h
  rfl

/-! ### Where a read gives back what is held (R64, R77) -/

theorem State.answer_of_readsBack {a : Word} (h : s.readsBack a = true) : s.answer a = s.stored a := by
  unfold State.readsBack at h
  unfold State.answer
  split
  · rename_i hc
    rw [if_pos hc] at h
    simp [h]
  · rename_i hc
    rw [if_neg hc] at h
    have h2 : s.platform.claimant a = some .ram := by simpa using h
    simp [h2, State.stored, show a ≠ ieAddr ∧ a ≠ ifAddr by constructor <;> rintro rfl <;> exact hc (by decide)]

theorem Platform.ramAt_of_claimant {p : Platform} {a : Word} (h : p.claimant a = some .ram) : p.ramAt a = true := by
  simp only [Platform.claimant, Option.map_eq_some_iff] at h
  obtain ⟨x, hx, hk⟩ := h
  simp only [Platform.ramAt, List.any_eq_true]
  exact ⟨x, List.mem_of_find?_eq_some hx, by simpa [hk] using List.find?_some hx⟩

theorem State.holds_of_readsBack {a : Word} (h : s.readsBack a = true) : s.holds a = true := by
  unfold State.readsBack at h
  unfold State.holds
  by_cases hc : coreClaims a = true
  · simp [hc]
  · rw [if_neg hc] at h
    simp [Platform.ramAt_of_claimant (by simpa using h)]

theorem State.readsBack_congr {s t : State} (h : t.platform = s.platform) (a : Word) : t.readsBack a = s.readsBack a := by
  simp [State.readsBack, h]

/-! ### Un-parking, faulting, counting (R401, R402) -/

theorem State.wake_of_scheduled {n : Nat} (h : s.sched = some n) : s.wake = s := by
  simp [State.wake, h]

theorem State.wake_of_pending (h : s.sched = none) (hp : s.pending ≠ 0) :
    s.wake = { s with sched := some s.cycle } :=
  if_pos ⟨h, hp⟩

theorem State.wake_of_quiet (hp : s.pending = 0) : s.wake = s :=
  if_neg fun h => h.2 hp

@[simp] theorem countCycle_next (t : State) : countCycle (.next t) = .next { t with cycle := t.cycle + 1 } := rfl

@[simp] theorem keepSchedOnFault_next (b : Option Nat) (t : State) :
    keepSchedOnFault b (.next t) = .next (if t.fault.isSome then { t with sched := b } else t) := rfl

/-- No interrupt is accepted with IME off or with nothing pending (R405). -/
theorem State.accepted_none (h : s.ime = false ∨ s.pending = 0) : s.accepted = none := by
  rcases h with h | h
  · simp [State.accepted, h]
  · simp only [State.accepted, h]
    split <;> rfl

/-- A tick of a CORE with a fault (R416). -/
theorem tick_faulted (h : s.fault ≠ none) : tick s = .next s := by
  simp [tick, Option.isSome_iff_ne_none, h]

/-- An idle tick (R403). -/
theorem tick_idle (h : s.fault = none) {n : Nat} (hs : s.sched = some n) (hn : n ≠ s.cycle) : tick s = .next s := by
  simp [tick, h, State.wake_of_scheduled s hs, hs, hn]

/-- A dispatch tick that services no interrupt (R409). -/
theorem tick_dispatch (h : s.fault = none) (hs : s.sched = some s.cycle) (ha : s.accepted = none) :
    tick s = keepSchedOnFault s.sched (exec s.fetch.1 s.fetch.2) := by
  simp [tick, h, State.wake_of_scheduled s hs, hs, ha]

/-- A dispatch tick that services an interrupt (R407). -/
theorem tick_service (h : s.fault = none) (hs : s.sched = some s.cycle) {i : Source} (ha : s.accepted = some i) :
    tick s = .next (s.enterInterrupt i) := by
  simp [tick, h, State.wake_of_scheduled s hs, hs, ha]

/-! ### Fetching (R409, R74) -/

/-- A fetch reads at least the opcode and at most three bytes, and changes the bus log alone. -/
theorem State.fetch_bus : ∃ reads, s.fetch.2 = { s with bus := reads ++ s.bus } ∧ reads.length ≤ 3 := by
  simp only [State.fetch]
  split
  · exact ⟨[_], rfl, by simp⟩
  · exact ⟨[_, _], rfl, by simp⟩
  · exact ⟨[_, _, _], rfl, by simp⟩

/-- A fetch of one byte. -/
theorem State.fetch_one (h : bytesReadAfter (s.answer s.pc) = 0) :
    s.fetch = (decodeBytes (s.answer s.pc) 0 0, (s.memRead s.pc).2) := by
  simp only [State.fetch, State.memRead] at *
  rw [h]
  rfl

/-- A fetch of two bytes. -/
theorem State.fetch_two (h : bytesReadAfter (s.answer s.pc) = 1) :
    s.fetch = (decodeBytes (s.answer s.pc) ((s.memRead s.pc).2.answer (s.pc + 1)) 0, ((s.memRead s.pc).2.memRead (s.pc + 1)).2) := by
  simp only [State.fetch, State.memRead] at *
  rw [h]
  rfl

/-- A fetch of three bytes. -/
theorem State.fetch_three (h : bytesReadAfter (s.answer s.pc) = 2) :
    s.fetch =
      (decodeBytes (s.answer s.pc) ((s.memRead s.pc).2.answer (s.pc + 1))
          (((s.memRead s.pc).2.memRead (s.pc + 1)).2.answer (s.pc + 2)),
        (((s.memRead s.pc).2.memRead (s.pc + 1)).2.memRead (s.pc + 2)).2) := by
  simp only [State.fetch, State.memRead] at *
  rw [h]
  rfl

/-! ### Priority and phases (R400, R405) -/

/-- The lowest set bit is the one serviced. -/
theorem lowestSource_eq (p : Byte) (i : Source) (h : p.getLsbD i.bit = true) (hl : ∀ j < i.bit, p.getLsbD j = false) :
    lowestSource p = some i := by
  have all : ∀ q : Byte, ∀ i : Source, q.getLsbD i.bit = true → (∀ k : Fin 8, k.val < i.bit → q.getLsbD k = false) →
      lowestSource q = some i := by
    intro q i
    revert q
    cases i <;> decide
  exact all p i h fun k hk => hl k hk

/-- Something is serviced whenever something is pending and enabled (R405). -/
theorem lowestSource_ne_none (p : Byte) (h : p &&& 0x1F ≠ 0) : lowestSource (p &&& 0x1F) ≠ none := by
  revert p
  decide

/-- In the phases faulted and idle a tick does nothing (R400, R403, R416). -/
theorem tick_of_phase_quiet (h : s.phase = .faulted ∨ s.phase = .idle) : tick s = .next s := by
  unfold State.phase at h
  unfold tick State.wake
  split_ifs at h ⊢ <;> simp_all

/-- In the phase servicing a tick enters an interrupt (R400, R405). -/
theorem tick_of_phase_servicing (h : s.phase = .servicing) :
    ∃ i, s.accepted = some i ∧ tick s = .next (s.enterInterrupt i) := by
  have hs : s.fault = none ∧ s.sched = some s.cycle ∧ s.ime = true ∧ s.pending ≠ 0 := by
    unfold State.phase at h
    split_ifs at h
    simp_all
  obtain ⟨hf, hc, hi, hp⟩ := hs
  cases ha : s.accepted with
  | none =>
    refine absurd ?_ (lowestSource_ne_none (s.ie &&& s.iflag) hp)
    rw [State.accepted, hi] at ha
    exact ha
  | some i => exact ⟨i, rfl, tick_service s hf hc ha⟩

/-- In the phase fetching a tick runs the instruction at PC (R400, R409). -/
theorem tick_of_phase_fetching (h : s.phase = .fetching) :
    tick s = keepSchedOnFault s.sched (exec s.fetch.1 s.fetch.2) := by
  have hs : s.fault = none ∧ s.sched = some s.cycle ∧ (s.ime = false ∨ s.pending = 0) := by
    unfold State.phase at h
    split_ifs at h
    cases hi : s.ime <;> simp_all
  exact tick_dispatch s hs.1 hs.2.1 (State.accepted_none s hs.2.2)

/-- In the phase halted a tick does nothing unless something is pending and enabled (R400, R402). -/
theorem tick_of_phase_halted (h : s.phase = .halted) (hp : s.pending = 0) : tick s = .next s := by
  have hs : s.fault = none ∧ s.sched = none := by
    unfold State.phase at h
    split_ifs at h
    simp_all
  simp [tick, hs.1, State.wake_of_quiet s hp, hs.2]

end Sys2Proof.Machine
end

