-- ==== Sys2Proof/Laws/Exec.lean ====
section
/-! SUPPORT. What any instruction can do to the parts that no instruction rule names: once, for all of them. -/

namespace Sys2Proof.Machine

/-- `t` may follow `s` by work that makes at most `n` bus transactions: the host's counter, the environment's queue and
the platform stay, memory stays canonical, F keeps its zero nibble, and the bus log only grows. -/
structure Follows (n : Nat) (s t : State) : Prop where
  cycle : t.cycle = s.cycle
  env : t.env = s.env
  platform : t.platform = s.platform
  mem : s.MemClean → t.MemClean
  flags : s.FlagsClean → t.FlagsClean
  bus : ∃ new, t.bus = new ++ s.bus ∧ new.length ≤ n

namespace Follows

variable {n m : Nat} {s t u : State}

/-- An update that touches none of these parts. -/
theorem of_eq (h1 : t.cycle = s.cycle) (h2 : t.env = s.env) (h3 : t.platform = s.platform) (h4 : t.mem = s.mem)
    (h5 : s.FlagsClean → t.FlagsClean) (h6 : t.bus = s.bus) : Follows 0 s t :=
  ⟨h1, h2, h3, (State.memClean_congr h4).mpr, h5, [], by simpa using h6, Nat.le_refl 0⟩

theorem refl : Follows 0 s s := of_eq rfl rfl rfl rfl id rfl

theorem trans (h1 : Follows n s t) (h2 : Follows m t u) : Follows (n + m) s u := by
  obtain ⟨b1, e1, l1⟩ := h1.bus
  obtain ⟨b2, e2, l2⟩ := h2.bus
  exact ⟨h2.cycle.trans h1.cycle, h2.env.trans h1.env, h2.platform.trans h1.platform, h2.mem ∘ h1.mem,
    h2.flags ∘ h1.flags, b2 ++ b1, by rw [e2, e1, List.append_assoc], by rw [List.length_append]; omega⟩

theorem mono (h : Follows n s t) (le : n ≤ m) : Follows m s t := by
  obtain ⟨b, e, l⟩ := h.bus
  exact { h with bus := ⟨b, e, l.trans le⟩ }

variable (s)

theorem setReg {r : Reg} (h : r ≠ .f) (v : Byte) : Follows 0 s (s.setReg r v) :=
  of_eq rfl rfl rfl rfl (fun hf => by simpa [State.FlagsClean, h.symm] using hf) rfl

theorem writeFlags (src : FlagSources) (alu : Flags) : Follows 0 s (s.writeFlags src alu) :=
  of_eq rfl rfl rfl rfl (fun _ => (State.writeFlags_flags s src alu).2.2.2.2) rfl

theorem setPair (p : Pair) (v : Word) : Follows 0 s (s.setPair p v) := by
  refine of_eq rfl rfl rfl rfl (fun hf => ?_) rfl
  cases p <;> simp_all [State.FlagsClean, State.reg_setPair, Pair.hi, Pair.lo, Pair.loMask, BitVec.and_assoc]

theorem setPairSP (p : Pair) (v : Word) : Follows 0 s (s.setPairSP p v) := by
  cases p
  case af => exact of_eq rfl rfl rfl rfl id rfl
  all_goals exact setPair s _ v

theorem complete (i : Instr) (w : Word) (b : Bool) : Follows 0 s (s.complete i w b) :=
  of_eq rfl rfl rfl rfl id rfl

theorem memRead (a : Word) : Follows 1 s (s.memRead a).2 :=
  ⟨rfl, rfl, rfl, id, id, [_], rfl, Nat.le_refl 1⟩

theorem memWrite (a : Word) (v : Byte) : Follows 1 s (s.memWrite a v) :=
  ⟨by simp, by simp, by simp, fun h => State.memClean_memWrite s h a v,
    fun h => by simpa [State.FlagsClean] using h, [.write a v], by simp, Nat.le_refl 1⟩

theorem memWrite16 (a v : Word) : Follows 2 s (s.memWrite16 a v) :=
  (memWrite s a (loByte v)).trans (memWrite _ (a + 1) (hiByte v))

theorem push16 (v : Word) : Follows 2 s (s.push16 v) :=
  have h : Follows 0 s { s with sp := s.sp - 2 } := of_eq rfl rfl rfl rfl id rfl
  (h.trans (memWrite16 _ _ v)).mono (by omega)

theorem pop16 : Follows 2 s s.pop16.2 :=
  have h : Follows 0 s.pop16.2 s.pop16.2 := refl
  ⟨rfl, rfl, rfl, h.mem, h.flags, [_, _], rfl, Nat.le_refl 2⟩

theorem retire (i : Instr) : Follows 0 s (s.retire i) := complete s i _ _

theorem setR8 (r : R8) (v : Byte) : Follows 0 s (s.setR8 r v) := setReg s (R8.toReg_ne_f r) v

theorem setAccumulator (alu : Alu8) : Follows 0 s (s.setAccumulator alu) :=
  (setReg s (by decide) _).trans (writeFlags _ _ _)

theorem updateR8 (r : R8) (alu : Alu8) (src : FlagSources) : Follows 0 s (s.updateR8 r alu src) :=
  (setR8 s r _).trans (writeFlags _ _ _)

theorem updateHL (alu : Alu8) (src : FlagSources) : Follows 1 s (s.updateHL alu src) :=
  (memWrite s _ _).trans (writeFlags _ _ _)

theorem readHL : Follows 1 s s.readHL.2 := memRead s _

theorem loadA (a : Word) : Follows 1 s (s.loadA a) := (memRead s a).trans (setReg _ (by decide) _)

theorem storeA (a : Word) : Follows 1 s (s.storeA a) := memWrite s a _

theorem call (i : Instr) (w : Word) (b : Bool) : Follows 2 s (s.call i w b) := (push16 s _).trans (complete _ _ _ _)

theorem popToPC (i : Instr) (b : Bool) : Follows 2 s (s.popToPC i b) := (pop16 s).trans (complete _ _ _ _)

theorem withSp (w : Word) : Follows 0 s { s with sp := w } := of_eq rfl rfl rfl rfl id rfl

theorem withIme (b : Bool) : Follows 0 s { s with ime := b } := of_eq rfl rfl rfl rfl id rfl

theorem raise (f : Fault) : Follows 0 s (s.raise f) := of_eq rfl rfl rfl rfl id rfl

end Follows

theorem execPrefixedR8_cases (y : BitVec 3) (r : R8) (s : State) :
    ∃ i, (∀ c, i ≠ .prefixCB c) ∧ execPrefixedR8 y r s = exec i s := by
  unfold execPrefixedR8
  split
  · exact ⟨.rlcR8 r, nofun, rfl⟩
  · exact ⟨.rrcR8 r, nofun, rfl⟩
  · exact ⟨.rlR8 r, nofun, rfl⟩
  · exact ⟨.rrR8 r, nofun, rfl⟩
  · exact ⟨.slaR8 r, nofun, rfl⟩
  · exact ⟨.sraR8 r, nofun, rfl⟩
  · exact ⟨.swapR8 r, nofun, rfl⟩
  · exact ⟨.srlR8 r, nofun, rfl⟩

theorem execPrefixedHL_cases (y : BitVec 3) (s : State) :
    ∃ i, (∀ c, i ≠ .prefixCB c) ∧ execPrefixedHL y s = exec i s := by
  unfold execPrefixedHL
  split
  · exact ⟨.rlcHL, nofun, rfl⟩
  · exact ⟨.rrcHL, nofun, rfl⟩
  · exact ⟨.rlHL, nofun, rfl⟩
  · exact ⟨.rrHL, nofun, rfl⟩
  · exact ⟨.slaHL, nofun, rfl⟩
  · exact ⟨.sraHL, nofun, rfl⟩
  · exact ⟨.swapHL, nofun, rfl⟩
  · exact ⟨.srlHL, nofun, rfl⟩

/-- The prefix is one of the other instructions (R409). -/
theorem execPrefixCB_cases (b : Byte) (s : State) : ∃ i, (∀ c, i ≠ .prefixCB c) ∧ execPrefixCB b s = exec i s := by
  unfold execPrefixCB
  split
  · exact execPrefixedR8_cases _ _ s
  · exact execPrefixedHL_cases _ s
  · exact ⟨.bitR8 _ _, nofun, rfl⟩
  · exact ⟨.bitHL _, nofun, rfl⟩
  · exact ⟨.resR8 _ _, nofun, rfl⟩
  · exact ⟨.resHL _, nofun, rfl⟩
  · exact ⟨.setR8 _ _, nofun, rfl⟩
  · exact ⟨.setHL _, nofun, rfl⟩


theorem next_of {n : Nat} {s t u : State} (h : (.next u : Result) = .next t) (hf : Follows n s u) : Follows n s t := by
  injection h with h
  exact h ▸ hf

open Follows in
/-- What every instruction but the prefix leaves alone, and how many bus transactions it makes at most. -/
theorem exec_follows_plain (i : Instr) (hi : ∀ b, i ≠ .prefixCB b) (s t : State) (h : exec i s = .next t) :
    Follows 2 s t := by
  cases i
  case prefixCB b => exact absurd rfl (hi b)
  case jpCcN16 cc n =>
    refine next_of h ?_
    split
    · exact (complete s _ _ _).mono (by decide)
    · exact (retire s _).mono (by decide)
  case jrCcE8 cc n =>
    refine next_of h ?_
    split
    · exact (complete s _ _ _).mono (by decide)
    · exact (retire s _).mono (by decide)
  case callCcN16 cc n =>
    refine next_of h ?_
    split
    · exact call s _ _ _
    · exact (retire s _).mono (by decide)
  case retCc cc =>
    refine next_of h ?_
    split
    · exact popToPC s _ _
    · exact (retire s _).mono (by decide)
  case reti => exact next_of h (((withIme s true).trans (pop16 _)).trans (complete _ _ _ _))
  case halt =>
    have h0 : Follows 0 s { s with pc := s.nextPC .halt, sched := none } := of_eq rfl rfl rfl rfl id rfl
    exact next_of h (h0.mono (by decide))
  case ldSPHL => exact next_of h (((withSp s _).trans (retire _ _)).mono (by decide))
  case addSPE8 e => exact next_of h ((((withSp s _).trans (writeFlags _ _ _)).trans (retire _ _)).mono (m := 2) (by decide))
  case di => exact next_of h (((withIme s _).trans (retire _ _)).mono (by decide))
  case ei => exact next_of h (((withIme s _).trans (retire _ _)).mono (by decide))
  case ldR8R8 => exact next_of h (((setR8 s _ _).trans (retire _ _)).mono (by decide))
  case ldR8N8 => exact next_of h (((setR8 s _ _).trans (retire _ _)).mono (by decide))
  case ldR8HL => exact next_of h ((((readHL s).trans (setR8 _ _ _)).trans (retire _ _)).mono (by decide))
  case ldHLR8 => exact next_of h (((memWrite s _ _).trans (retire _ _)).mono (by decide))
  case ldHLN8 => exact next_of h (((memWrite s _ _).trans (retire _ _)).mono (by decide))
  case ldABC => exact next_of h (((loadA s _).trans (retire _ _)).mono (by decide))
  case ldADE => exact next_of h (((loadA s _).trans (retire _ _)).mono (by decide))
  case ldBCA => exact next_of h (((storeA s _).trans (retire _ _)).mono (by decide))
  case ldDEA => exact next_of h (((storeA s _).trans (retire _ _)).mono (by decide))
  case ldAN16 => exact next_of h (((loadA s _).trans (retire _ _)).mono (by decide))
  case ldN16A => exact next_of h (((storeA s _).trans (retire _ _)).mono (by decide))
  case ldhAN8 => exact next_of h (((loadA s _).trans (retire _ _)).mono (by decide))
  case ldhN8A => exact next_of h (((storeA s _).trans (retire _ _)).mono (by decide))
  case ldhAC => exact next_of h (((loadA s _).trans (retire _ _)).mono (by decide))
  case ldhCA => exact next_of h (((storeA s _).trans (retire _ _)).mono (by decide))
  case ldAHLI => exact next_of h ((((loadA s _).trans (setPair _ _ _)).trans (retire _ _)).mono (by decide))
  case ldAHLD => exact next_of h ((((loadA s _).trans (setPair _ _ _)).trans (retire _ _)).mono (by decide))
  case ldHLIA => exact next_of h ((((storeA s _).trans (setPair _ _ _)).trans (retire _ _)).mono (by decide))
  case ldHLDA => exact next_of h ((((storeA s _).trans (setPair _ _ _)).trans (retire _ _)).mono (by decide))
  case ldR16N16 => exact next_of h (((setPairSP s _ _).trans (retire _ _)).mono (by decide))
  case ldN16SP => exact next_of h (((memWrite16 s _ _).trans (retire _ _)).mono (by decide))
  case pushR16 => exact next_of h (((push16 s _).trans (retire _ _)).mono (by decide))
  case popR16 => exact next_of h ((((pop16 s).trans (setPair _ _ _)).trans (retire _ _)).mono (by decide))
  case addR8 => exact next_of h (((setAccumulator s _).trans (retire _ _)).mono (by decide))
  case addN8 => exact next_of h (((setAccumulator s _).trans (retire _ _)).mono (by decide))
  case addHL => exact next_of h ((((readHL s).trans (setAccumulator _ _)).trans (retire _ _)).mono (by decide))
  case adcR8 => exact next_of h (((setAccumulator s _).trans (retire _ _)).mono (by decide))
  case adcN8 => exact next_of h (((setAccumulator s _).trans (retire _ _)).mono (by decide))
  case adcHL => exact next_of h ((((readHL s).trans (setAccumulator _ _)).trans (retire _ _)).mono (by decide))
  case subR8 => exact next_of h (((setAccumulator s _).trans (retire _ _)).mono (by decide))
  case subN8 => exact next_of h (((setAccumulator s _).trans (retire _ _)).mono (by decide))
  case subHL => exact next_of h ((((readHL s).trans (setAccumulator _ _)).trans (retire _ _)).mono (by decide))
  case sbcR8 => exact next_of h (((setAccumulator s _).trans (retire _ _)).mono (by decide))
  case sbcN8 => exact next_of h (((setAccumulator s _).trans (retire _ _)).mono (by decide))
  case sbcHL => exact next_of h ((((readHL s).trans (setAccumulator _ _)).trans (retire _ _)).mono (by decide))
  case cpR8 => exact next_of h (((writeFlags s _ _).trans (retire _ _)).mono (by decide))
  case cpN8 => exact next_of h (((writeFlags s _ _).trans (retire _ _)).mono (by decide))
  case cpHL => exact next_of h ((((readHL s).trans (writeFlags _ _ _)).trans (retire _ _)).mono (by decide))
  case incR8 => exact next_of h (((updateR8 s _ _ _).trans (retire _ _)).mono (by decide))
  case incHL => exact next_of h ((((readHL s).trans (updateHL _ _ _)).trans (retire _ _)).mono (by decide))
  case decR8 => exact next_of h (((updateR8 s _ _ _).trans (retire _ _)).mono (by decide))
  case decHL => exact next_of h ((((readHL s).trans (updateHL _ _ _)).trans (retire _ _)).mono (by decide))
  case incR16 => exact next_of h (((setPairSP s _ _).trans (retire _ _)).mono (by decide))
  case decR16 => exact next_of h (((setPairSP s _ _).trans (retire _ _)).mono (by decide))
  case addHLR16 => exact next_of h ((((setPair s _ _).trans (writeFlags _ _ _)).trans (retire _ _)).mono (by decide))
  case ldHLSPE8 => exact next_of h ((((setPair s _ _).trans (writeFlags _ _ _)).trans (retire _ _)).mono (by decide))
  case andR8 => exact next_of h (((setAccumulator s _).trans (retire _ _)).mono (by decide))
  case andN8 => exact next_of h (((setAccumulator s _).trans (retire _ _)).mono (by decide))
  case andHL => exact next_of h ((((readHL s).trans (setAccumulator _ _)).trans (retire _ _)).mono (by decide))
  case orR8 => exact next_of h (((setAccumulator s _).trans (retire _ _)).mono (by decide))
  case orN8 => exact next_of h (((setAccumulator s _).trans (retire _ _)).mono (by decide))
  case orHL => exact next_of h ((((readHL s).trans (setAccumulator _ _)).trans (retire _ _)).mono (by decide))
  case xorR8 => exact next_of h (((setAccumulator s _).trans (retire _ _)).mono (by decide))
  case xorN8 => exact next_of h (((setAccumulator s _).trans (retire _ _)).mono (by decide))
  case xorHL => exact next_of h ((((readHL s).trans (setAccumulator _ _)).trans (retire _ _)).mono (by decide))
  case cpl => exact next_of h ((((setReg s (by decide) _).trans (writeFlags _ _ _)).trans (retire _ _)).mono (by decide))
  case daa => exact next_of h ((((setReg s (by decide) _).trans (writeFlags _ _ _)).trans (retire _ _)).mono (by decide))
  case scf => exact next_of h (((writeFlags s _ _).trans (retire _ _)).mono (by decide))
  case ccf => exact next_of h (((writeFlags s _ _).trans (retire _ _)).mono (by decide))
  case rlca => exact next_of h (((updateR8 s _ _ _).trans (retire _ _)).mono (by decide))
  case rrca => exact next_of h (((updateR8 s _ _ _).trans (retire _ _)).mono (by decide))
  case rla => exact next_of h (((updateR8 s _ _ _).trans (retire _ _)).mono (by decide))
  case rra => exact next_of h (((updateR8 s _ _ _).trans (retire _ _)).mono (by decide))
  case rlcR8 => exact next_of h (((updateR8 s _ _ _).trans (retire _ _)).mono (by decide))
  case rlcHL => exact next_of h ((((readHL s).trans (updateHL _ _ _)).trans (retire _ _)).mono (by decide))
  case rrcR8 => exact next_of h (((updateR8 s _ _ _).trans (retire _ _)).mono (by decide))
  case rrcHL => exact next_of h ((((readHL s).trans (updateHL _ _ _)).trans (retire _ _)).mono (by decide))
  case rlR8 => exact next_of h (((updateR8 s _ _ _).trans (retire _ _)).mono (by decide))
  case rlHL => exact next_of h ((((readHL s).trans (updateHL _ _ _)).trans (retire _ _)).mono (by decide))
  case rrR8 => exact next_of h (((updateR8 s _ _ _).trans (retire _ _)).mono (by decide))
  case rrHL => exact next_of h ((((readHL s).trans (updateHL _ _ _)).trans (retire _ _)).mono (by decide))
  case slaR8 => exact next_of h (((updateR8 s _ _ _).trans (retire _ _)).mono (by decide))
  case slaHL => exact next_of h ((((readHL s).trans (updateHL _ _ _)).trans (retire _ _)).mono (by decide))
  case sraR8 => exact next_of h (((updateR8 s _ _ _).trans (retire _ _)).mono (by decide))
  case sraHL => exact next_of h ((((readHL s).trans (updateHL _ _ _)).trans (retire _ _)).mono (by decide))
  case swapR8 => exact next_of h (((updateR8 s _ _ _).trans (retire _ _)).mono (by decide))
  case swapHL => exact next_of h ((((readHL s).trans (updateHL _ _ _)).trans (retire _ _)).mono (by decide))
  case srlR8 => exact next_of h (((updateR8 s _ _ _).trans (retire _ _)).mono (by decide))
  case srlHL => exact next_of h ((((readHL s).trans (updateHL _ _ _)).trans (retire _ _)).mono (by decide))
  case bitR8 => exact next_of h (((writeFlags s _ _).trans (retire _ _)).mono (by decide))
  case bitHL => exact next_of h ((((readHL s).trans (writeFlags _ _ _)).trans (retire _ _)).mono (by decide))
  case resR8 => exact next_of h (((setR8 s _ _).trans (retire _ _)).mono (by decide))
  case resHL => exact next_of h ((((readHL s).trans (memWrite _ _ _)).trans (retire _ _)).mono (by decide))
  case setR8 => exact next_of h (((setR8 s _ _).trans (retire _ _)).mono (by decide))
  case setHL => exact next_of h ((((readHL s).trans (memWrite _ _ _)).trans (retire _ _)).mono (by decide))
  case jpN16 => exact next_of h ((complete s _ _ _).mono (by decide))
  case jpHL => exact next_of h ((complete s _ _ _).mono (by decide))
  case jrE8 => exact next_of h ((complete s _ _ _).mono (by decide))
  case callN16 => exact next_of h ((call s _ _ _).mono (by decide))
  case rstU3 => exact next_of h ((call s _ _ _).mono (by decide))
  case ret => exact next_of h ((popToPC s _ _).mono (by decide))
  case nop => exact next_of h ((retire s _).mono (by decide))
  case stop => exact next_of h ((raise s _).mono (by decide))
  case unmapped => exact next_of h ((raise s _).mono (by decide))

/-- The same for every instruction. -/
theorem exec_follows (i : Instr) (s t : State) (h : exec i s = .next t) : Follows 2 s t := by
  by_cases hi : ∃ b, i = .prefixCB b
  · obtain ⟨b, rfl⟩ := hi
    obtain ⟨j, hj, e⟩ := execPrefixCB_cases b s
    exact exec_follows_plain j hj s t (e ▸ h)
  · exact exec_follows_plain i (fun b e => hi ⟨b, e⟩) s t h

/-! ### The prefix row, and that a meaning always answers a next state -/

/-- The prefix row's meaning is that of the prefixed row it selects (R409). -/
theorem execPrefixCB_eq (b : Byte) (s : State) : execPrefixCB b s = exec (decodePrefixed b) s := by
  unfold execPrefixCB decodePrefixed
  generalize opX b = x, opY b = y
  cases R8.ofCode (opZ b) <;> split <;> (try unfold execPrefixedR8) <;> (try unfold execPrefixedHL) <;> (try split) <;>
    simp_all <;> rfl

/-- No meaning answers a fault or a refusal. -/
theorem exec_next (i : Instr) (s : State) : ∃ t, exec i s = .next t := by
  cases i
  case prefixCB b =>
    show ∃ t, execPrefixCB b s = .next t
    unfold execPrefixCB execPrefixedR8 execPrefixedHL
    repeat' split
    all_goals exact ⟨_, rfl⟩
  all_goals exact ⟨_, rfl⟩

end Sys2Proof.Machine
end

