-- ==== Sys2Proof/Laws/Operands.lean ====
section
/-! SUPPORT. Operand forms: the 0xFF00 window, the signed byte, and the conditions. -/

namespace Sys2Proof.Machine

/-- An address of the window is 0xFF above the byte (R110). -/
theorem highAddr_eq (n : Byte) : highAddr n = 0xFF#8 ++ n := by
  revert n; decide

/-- The signed byte (R111). -/
theorem sext16_eq (e : Byte) : sext16 e = BitVec.ofInt 16 e.toInt := rfl

/-- Its low nibble and low byte are the byte's own: what add16L takes the flags from (R145). -/
theorem sext16_low (e : Byte) : (sext16 e).toNat % 16 = e.toNat % 16 ∧ (sext16 e).toNat % 256 = e.toNat := by
  revert e; decide

/-- The condition as the pair of a flag and its wanted value (R109, R360). -/
theorem State.cond_eq (s : State) (cc : Cond) :
    s.cond cc = true ↔
      match cc with
      | .nz => s.flagZ = false
      | .z => s.flagZ = true
      | .nc => s.flagC = false
      | .c => s.flagC = true := by
  cases cc <;> simp [State.cond]

end Sys2Proof.Machine
end

