-- ==== Sys2Proof/Tests/Slice0.lean ====
section
/-! SUPPORT. Tests: words written out from the encodings of the rules, single steps from the vectors of 95_test_vectors.md,
the checks of WellFormed, and for every statement with hypotheses a state and operands that meet them. -/

namespace Sys2Proof.Tests

open Sys2Proof Sys2Proof.Machine

/-! ### Helpers -/

/-- All registers 0. -/
def zero : RegFile := State.reset.regs

/-- A machine whose next tick dispatches `code` at `pc`: the start states of 95_test_vectors.md, section 0. -/
def machine (regs : RegFile) (sp pc : Word) (code : List Byte) (cells : List (Word × Byte)) : State :=
  let placed := code.zipIdx.map fun x => (pc + BitVec.ofNat 16 x.2, x.1)
  (placed ++ cells).foldl (fun s x => s.store x.1 x.2) { State.reset with regs := regs, sp := sp, pc := pc }

/-- One step from `s` leaves these registers, SP, PC, IME, sched, these bytes held, and no fault. -/
def leaves (s : State) (regs : RegFile) (sp pc : Word) (ime : Bool) (sched : Option Nat) (cells : List (Word × Byte)) : Bool :=
  match step s with
  | .next t =>
    t.regs == regs && t.sp == sp && t.pc == pc && t.ime == ime && t.sched == sched && t.fault == none &&
      cells.all fun x => t.stored x.1 == x.2
  | _ => false

/-- Each list of bytes decodes to the instruction beside it, with nothing left over. -/
def decodesTo (l : List (List Byte × Instr)) : Bool :=
  l.all fun x =>
    match decode x.1 with
    | .ok (i, rest) => i == x.2 && rest.isEmpty
    | .error _ => false

/-! ### WellFormed (the checks refuse these terms) -/

theorem test_prefix_row_is_ill_formed : WellFormed (.prefixCB 0x37) = false := by decide

theorem test_unmapped_of_a_mapped_slot_is_ill_formed : WellFormed (.unmapped 0x00) = false := by decide

theorem test_unmapped_of_the_prefix_is_ill_formed : WellFormed (.unmapped 0xCB) = false := by decide

theorem test_unmapped_slot_is_well_formed : WellFormed (.unmapped 0xD3) = true := by decide

/-! ### Decoding: one word for every constructor, from the Encoding line of its rule -/

/-- R200-R223. -/
theorem test_decode_loads_and_stores : decodesTo [([0b01001101], .ldR8R8 .c .l), ([0b00111110, 0x7B], .ldR8N8 .a 0x7B),
    ([0b01010110], .ldR8HL .d), ([0b01110100], .ldHLR8 .h), ([0x36, 0xAB], .ldHLN8 0xAB), ([0x0A], .ldABC), ([0x1A], .ldADE),
    ([0x02], .ldBCA), ([0x12], .ldDEA), ([0xFA, 0x34, 0xC2], .ldAN16 0xC234), ([0xEA, 0x34, 0xC2], .ldN16A 0xC234),
    ([0xF0, 0x85], .ldhAN8 0x85), ([0xE0, 0x85], .ldhN8A 0x85), ([0xF2], .ldhAC), ([0xE2], .ldhCA), ([0x2A], .ldAHLI),
    ([0x3A], .ldAHLD), ([0x22], .ldHLIA), ([0x32], .ldHLDA), ([0b00100001, 0xC4, 0xB1], .ldR16N16 .hl 0xB1C4),
    ([0x08, 0x00, 0xC0], .ldN16SP 0xC000), ([0xF9], .ldSPHL), ([0b11010101], .pushR16 .de), ([0b11110001], .popR16 .af)] =
      true := by decide

/-- R240-R263. -/
theorem test_decode_arithmetic : decodesTo [([0b10000010], .addR8 .d), ([0xC6, 0x01], .addN8 0x01), ([0x86], .addHL),
    ([0b10001111], .adcR8 .a), ([0xCE, 0x02], .adcN8 0x02), ([0x8E], .adcHL), ([0b10010000], .subR8 .b),
    ([0xD6, 0x0F], .subN8 0x0F), ([0x96], .subHL), ([0b10011011], .sbcR8 .e), ([0xDE, 0x03], .sbcN8 0x03), ([0x9E], .sbcHL),
    ([0b10111100], .cpR8 .h), ([0xFE, 0x3C], .cpN8 0x3C), ([0xBE], .cpHL), ([0b00101100], .incR8 .l), ([0x34], .incHL),
    ([0b00001101], .decR8 .c), ([0x35], .decHL), ([0b00010011], .incR16 .de), ([0b00111011], .decR16 .af),
    ([0b00101001], .addHLR16 .hl), ([0xE8, 0x80], .addSPE8 0x80), ([0xF8, 0xFF], .ldHLSPE8 0xFF)] = true := by decide

/-- R280-R292. -/
theorem test_decode_logic : decodesTo [([0b10100001], .andR8 .c), ([0xE6, 0x38], .andN8 0x38), ([0xA6], .andHL),
    ([0b10110111], .orR8 .a), ([0xF6, 0x0F], .orN8 0x0F), ([0xB6], .orHL), ([0b10101000], .xorR8 .b),
    ([0xEE, 0x0F], .xorN8 0x0F), ([0xAE], .xorHL), ([0x2F], .cpl), ([0x27], .daa), ([0x37], .scf), ([0x3F], .ccf)] =
      true := by decide

/-- R300-R319. -/
theorem test_decode_rotates_and_shifts : decodesTo [([0x07], .rlca), ([0x0F], .rrca), ([0x17], .rla), ([0x1F], .rra),
    ([0xCB, 0b00000000], .rlcR8 .b), ([0xCB, 0x06], .rlcHL), ([0xCB, 0b00001001], .rrcR8 .c), ([0xCB, 0x0E], .rrcHL),
    ([0xCB, 0b00010010], .rlR8 .d), ([0xCB, 0x16], .rlHL), ([0xCB, 0b00011011], .rrR8 .e), ([0xCB, 0x1E], .rrHL),
    ([0xCB, 0b00100100], .slaR8 .h), ([0xCB, 0x26], .slaHL), ([0xCB, 0b00101101], .sraR8 .l), ([0xCB, 0x2E], .sraHL),
    ([0xCB, 0b00110111], .swapR8 .a), ([0xCB, 0x36], .swapHL), ([0xCB, 0b00111000], .srlR8 .b), ([0xCB, 0x3E], .srlHL)] =
      true := by decide

/-- R340-R345. -/
theorem test_decode_bits : decodesTo [([0xCB, 0b01111100], .bitR8 7 .h), ([0xCB, 0b01000110], .bitHL 0),
    ([0xCB, 0b10001010], .resR8 1 .d), ([0xCB, 0b10110110], .resHL 6), ([0xCB, 0b11100111], .setR8 4 .a),
    ([0xCB, 0b11111110], .setHL 7)] = true := by decide

/-- R361-R371. -/
theorem test_decode_control : decodesTo [([0xC3, 0x50, 0x01], .jpN16 0x0150), ([0b11011010, 0x50, 0x01], .jpCcN16 .c 0x0150),
    ([0xE9], .jpHL), ([0x18, 0xFE], .jrE8 0xFE), ([0b00110000, 0xFC], .jrCcE8 .nc 0xFC), ([0xCD, 0x34, 0x12], .callN16 0x1234),
    ([0b11001100, 0x34, 0x12], .callCcN16 .z 0x1234), ([0b11101111], .rstU3 5), ([0xC9], .ret), ([0b11000000], .retCc .nz),
    ([0xD9], .reti)] = true := by decide

/-- R380-R384, R115. -/
theorem test_decode_system : decodesTo [([0x00], .nop), ([0xF3], .di), ([0xFB], .ei), ([0x76], .halt), ([0x10, 0x00], .stop),
    ([0x10, 0x55], .stop), ([0xDD], .unmapped 0xDD), ([0xFC], .unmapped 0xFC)] = true := by decide

/-- A stream that ends inside an instruction is refused by name. -/
theorem test_decode_truncated : (match decode [0xCD, 0x34] with
    | .error e => e == .truncated 0xCD
    | .ok _ => false) = true := by decide

/-- The table numbers byte 0 in bits 7:0. -/
theorem test_decodeTableWord : decodeTableWord 24 0xB1C421 = some (.ldR16N16 .hl 0xB1C4) ∧
    decodeTableWord 16 0x37CB = some (.swapR8 .a) ∧ decodeTableWord 8 0xC6 = some (.addN8 0x00) := by decide

/-- `withFetchWord` makes the next step run that word, also where reset would not have run it. -/
theorem test_withFetchWord : leaves (State.reset.withFetchWord 16 0x7B3E) { zero with a := 0x7B } 0x0000 0x0002 false (some 2)
    [(0x0000, 0x3E), (0x0001, 0x7B)] = true := by decide

/-! ### The packed form (R142), of the examples of R144 and R146, packed by hand -/

theorem test_pack_8 : (add8 0x3A 0xC6 false).pack = 0x0000B0 ∧ unpackValue 0x0000B0 = 0x0000 ∧ unpackFlags 0x0000B0 = 0xB0 := by
  decide

theorem test_pack_16 : (add16H 0x8A23 0x0605).pack = 0x902820 ∧ unpackValue 0x902820 = 0x9028 ∧
    unpackFlags 0x902820 = 0x20 := by decide

/-! ### Instructions: single steps from the vectors of the spec -/

/-- LS.1 of 95_test_vectors.md (rule R200). -/
theorem test_LS_1 : leaves (machine { zero with b := 0x11, c := 0x22 } 0xD000 0x0100 [0x41] [])
    { zero with b := 0x22, c := 0x22 } 0xD000 0x0101 false (some 1) [] = true := by decide

/-- LS.3 of 95_test_vectors.md (rule R202). -/
theorem test_LS_3 : leaves (machine { zero with h := 0xC0 } 0xD000 0x0100 [0x46] [(0xC000, 0x99)])
    { zero with h := 0xC0, b := 0x99 } 0xD000 0x0101 false (some 2) [] = true := by decide

/-- LS.5 of 95_test_vectors.md (rule R203). -/
theorem test_LS_5 : leaves (machine { zero with h := 0xC0 } 0xD000 0x0100 [0x74] [])
    { zero with h := 0xC0 } 0xD000 0x0101 false (some 2) [(0xC000, 0xC0)] = true := by decide

/-- LS.7 of 95_test_vectors.md (rule R204). -/
theorem test_LS_7 : leaves (machine { zero with h := 0xC0 } 0xD000 0x0100 [0x36, 0xAB] [])
    { zero with h := 0xC0 } 0xD000 0x0102 false (some 3) [(0xC000, 0xAB)] = true := by decide

/-- LS.10 of 95_test_vectors.md (rule R209). -/
theorem test_LS_10 : leaves (machine zero 0xD000 0x0100 [0xFA, 0x34, 0xC2] [(0xC234, 0x3C)])
    { zero with a := 0x3C } 0xD000 0x0103 false (some 4) [] = true := by decide

/-- LS.13 of 95_test_vectors.md (rule R212). -/
theorem test_LS_13 : leaves (machine { zero with a := 0x1F } 0xD000 0x0100 [0xE0, 0xFF] [])
    { zero with a := 0x1F } 0xD000 0x0102 false (some 3) [(0xFFFF, 0x1F)] = true := by decide

/-- LS.14 of 95_test_vectors.md (rule R212). -/
theorem test_LS_14 : leaves (machine { zero with a := 0x04 } 0xD000 0x0100 [0xE0, 0x0F] [])
    { zero with a := 0x04 } 0xD000 0x0102 false (some 3) [(0xFF0F, 0x04)] = true := by decide

/-- LS.15 of 95_test_vectors.md (rule R213). -/
theorem test_LS_15 : leaves (machine { zero with c := 0x0F } 0xD000 0x0100 [0xF2] [(0xFF0F, 0x05)])
    { zero with c := 0x0F, a := 0x05 } 0xD000 0x0101 false (some 2) [] = true := by decide

/-- LS.18 of 95_test_vectors.md (rule R216). -/
theorem test_LS_18 : leaves (machine { zero with h := 0xC0 } 0xD000 0x0100 [0x3A] [(0xC000, 0x31)])
    { zero with h := 0xBF, l := 0xFF, a := 0x31 } 0xD000 0x0101 false (some 2) [] = true := by decide

/-- LS.19 of 95_test_vectors.md (rule R217). -/
theorem test_LS_19 : leaves (machine { zero with a := 0x9E, h := 0xFF, l := 0xFF } 0xD000 0x0100 [0x22] [])
    { zero with a := 0x9E } 0xD000 0x0101 false (some 2) [(0xFFFF, 0x9E)] = true := by decide

/-- LS.20 of 95_test_vectors.md (rule R218). -/
theorem test_LS_20 : leaves (machine { zero with a := 0x9E } 0xD000 0x0100 [0x32] [])
    { zero with a := 0x9E, h := 0xFF, l := 0xFF } 0xD000 0x0101 false (some 2) [(0x0000, 0x9E)] = true := by decide

/-- LS.22 of 95_test_vectors.md (rule R219). -/
theorem test_LS_22 : leaves (machine zero 0xD000 0x0100 [0x31, 0xFE, 0xFF] [])
    zero 0xFFFE 0x0103 false (some 3) [] = true := by decide

/-- LS.23 of 95_test_vectors.md (rule R220). -/
theorem test_LS_23 : leaves (machine zero 0xFFF8 0x0100 [0x08, 0x00, 0xC0] [])
    zero 0xFFF8 0x0103 false (some 5) [(0xC000, 0xF8), (0xC001, 0xFF)] = true := by decide

/-- LS.24 of 95_test_vectors.md (rule R221). -/
theorem test_LS_24 : leaves (machine { zero with h := 0xDF, l := 0xF0 } 0xD000 0x0100 [0xF9] [])
    { zero with h := 0xDF, l := 0xF0 } 0xDFF0 0x0101 false (some 2) [] = true := by decide

/-- LS.26 of 95_test_vectors.md (rule R222). -/
theorem test_LS_26 : leaves (machine { zero with a := 0x12, f := 0xB0 } 0xD000 0x0100 [0xF5] [])
    { zero with a := 0x12, f := 0xB0 } 0xCFFE 0x0101 false (some 4) [(0xCFFE, 0xB0), (0xCFFF, 0x12)] = true := by decide

/-- LS.28 of 95_test_vectors.md (rule R223). -/
theorem test_LS_28 : leaves (machine zero 0xD000 0x0100 [0xF1] [(0xD000, 0xFF), (0xD001, 0x12)])
    { zero with f := 0xF0, a := 0x12 } 0xD002 0x0101 false (some 3) [] = true := by decide

/-- LS.29 of 95_test_vectors.md (rule R206). -/
theorem test_LS_29 : leaves (machine { zero with d := 0xC3, e := 0x45 } 0xD000 0x0100 [0x1A] [(0xC345, 0xA7)])
    { zero with d := 0xC3, e := 0x45, a := 0xA7 } 0xD000 0x0101 false (some 2) [] = true := by decide

/-- LS.30 of 95_test_vectors.md (rule R207). -/
theorem test_LS_30 : leaves (machine { zero with a := 0x5B, b := 0xFF, c := 0x0F } 0xD000 0x0100 [0x02] [])
    { zero with a := 0x5B, b := 0xFF, c := 0x0F } 0xD000 0x0101 false (some 2) [(0xFF0F, 0x5B)] = true := by decide

/-- AR.1 of 95_test_vectors.md (rule R240). -/
theorem test_AR_1 : leaves (machine { zero with a := 0x3A, b := 0xC6 } 0xD000 0x0100 [0x80] [])
    { zero with b := 0xC6, f := 0xB0 } 0xD000 0x0101 false (some 1) [] = true := by decide

/-- AR.6 of 95_test_vectors.md (rule R241). -/
theorem test_AR_6 : leaves (machine { zero with a := 0xE1, f := 0x10, c := 0x0F } 0xD000 0x0100 [0x89] [])
    { zero with a := 0xF1, f := 0x20, c := 0x0F } 0xD000 0x0101 false (some 1) [] = true := by decide

/-- AR.11 of 95_test_vectors.md (rule R250). -/
theorem test_AR_11 : leaves (machine { zero with a := 0x3E, h := 0xC0 } 0xD000 0x0100 [0x96] [(0xC000, 0x40)])
    { zero with a := 0xFE, h := 0xC0, f := 0x50 } 0xD000 0x0101 false (some 2) [] = true := by decide

/-- AR.13 of 95_test_vectors.md (rule R247). -/
theorem test_AR_13 : leaves (machine { zero with a := 0x3B, f := 0x10, b := 0x2A } 0xD000 0x0100 [0x98] [])
    { zero with a := 0x10, f := 0x40, b := 0x2A } 0xD000 0x0101 false (some 1) [] = true := by decide

/-- AR.15 of 95_test_vectors.md (rule R251). -/
theorem test_AR_15 : leaves (machine { zero with a := 0x10, f := 0x10, h := 0xC0 } 0xD000 0x0100 [0x9E] [(0xC000, 0x0F)])
    { zero with f := 0xE0, h := 0xC0 } 0xD000 0x0101 false (some 2) [] = true := by decide

/-- AR.16 of 95_test_vectors.md (rule R252). -/
theorem test_AR_16 : leaves (machine { zero with a := 0x3C, b := 0x2F } 0xD000 0x0100 [0xB8] [])
    { zero with a := 0x3C, b := 0x2F, f := 0x60 } 0xD000 0x0101 false (some 1) [] = true := by decide

/-- AR.19 of 95_test_vectors.md (rule R255). -/
theorem test_AR_19 : leaves (machine { zero with f := 0x10, b := 0xFF } 0xD000 0x0100 [0x04] [])
    { zero with f := 0xB0 } 0xD000 0x0101 false (some 1) [] = true := by decide

/-- AR.21 of 95_test_vectors.md (rule R256). -/
theorem test_AR_21 : leaves (machine { zero with h := 0xC0 } 0xD000 0x0100 [0x34] [(0xC000, 0x7F)])
    { zero with h := 0xC0, f := 0x20 } 0xD000 0x0101 false (some 3) [(0xC000, 0x80)] = true := by decide

/-- AR.23 of 95_test_vectors.md (rule R257). -/
theorem test_AR_23 : leaves (machine { zero with f := 0x10 } 0xD000 0x0100 [0x3D] [])
    { zero with a := 0xFF, f := 0x70 } 0xD000 0x0101 false (some 1) [] = true := by decide

/-- AR.24 of 95_test_vectors.md (rule R258). -/
theorem test_AR_24 : leaves (machine { zero with f := 0x10, h := 0xC0 } 0xD000 0x0100 [0x35] [(0xC000, 0x10)])
    { zero with f := 0x70, h := 0xC0 } 0xD000 0x0101 false (some 3) [(0xC000, 0x0F)] = true := by decide

/-- AR.26 of 95_test_vectors.md (rule R259). -/
theorem test_AR_26 : leaves (machine zero 0xFFFF 0x0100 [0x33] [])
    zero 0x0000 0x0101 false (some 2) [] = true := by decide

/-- AR.27 of 95_test_vectors.md (rule R260). -/
theorem test_AR_27 : leaves (machine zero 0xD000 0x0100 [0x0B] [])
    { zero with b := 0xFF, c := 0xFF } 0xD000 0x0101 false (some 2) [] = true := by decide

/-- AR.29 of 95_test_vectors.md (rule R261). -/
theorem test_AR_29 : leaves (machine { zero with f := 0x80, b := 0x06, c := 0x05, h := 0x8A, l := 0x23 } 0xD000 0x0100 [0x09] [])
    { zero with f := 0xA0, b := 0x06, c := 0x05, h := 0x90, l := 0x28 } 0xD000 0x0101 false (some 2) [] = true := by decide

/-- AR.31 of 95_test_vectors.md (rule R261). -/
theorem test_AR_31 : leaves (machine { zero with f := 0xC0, h := 0x0F, l := 0xFF } 0x0001 0x0100 [0x39] [])
    { zero with f := 0xA0, h := 0x10 } 0x0001 0x0101 false (some 2) [] = true := by decide

/-- AR.32 of 95_test_vectors.md (rule R262). -/
theorem test_AR_32 : leaves (machine { zero with f := 0xF0 } 0xFFF8 0x0100 [0xE8, 0x08] [])
    { zero with f := 0x30 } 0x0000 0x0102 false (some 4) [] = true := by decide

/-- AR.36 of 95_test_vectors.md (rule R263). -/
theorem test_AR_36 : leaves (machine zero 0x0000 0x0100 [0xF8, 0xFF] [])
    { zero with h := 0xFF, l := 0xFF } 0x0000 0x0102 false (some 3) [] = true := by decide

/-- LG.3 of 95_test_vectors.md (rule R282). -/
theorem test_LG_3 : leaves (machine { zero with a := 0x5A, h := 0xC0 } 0xD000 0x0100 [0xA6] [(0xC000, 0x00)])
    { zero with h := 0xC0, f := 0xA0 } 0xD000 0x0101 false (some 2) [] = true := by decide

/-- LG.5 of 95_test_vectors.md (rule R283). -/
theorem test_LG_5 : leaves (machine { zero with a := 0x5A, f := 0xF0, b := 0x0F } 0xD000 0x0100 [0xB0] [])
    { zero with a := 0x5F, b := 0x0F } 0xD000 0x0101 false (some 1) [] = true := by decide

/-- LG.8 of 95_test_vectors.md (rule R286). -/
theorem test_LG_8 : leaves (machine { zero with a := 0xFF, f := 0x70 } 0xD000 0x0100 [0xAF] [])
    { zero with f := 0x80 } 0xD000 0x0101 false (some 1) [] = true := by decide

/-- LG.11 of 95_test_vectors.md (rule R289). -/
theorem test_LG_11 : leaves (machine { zero with a := 0x35, f := 0x90 } 0xD000 0x0100 [0x2F] [])
    { zero with a := 0xCA, f := 0xF0 } 0xD000 0x0101 false (some 1) [] = true := by decide

/-- LG.13 of 95_test_vectors.md (rule R290). -/
theorem test_LG_13 : leaves (machine { zero with a := 0x9A } 0xD000 0x0100 [0x27] [])
    { zero with f := 0x90 } 0xD000 0x0101 false (some 1) [] = true := by decide

/-- LG.16 of 95_test_vectors.md (rule R290). -/
theorem test_LG_16 : leaves (machine { zero with a := 0xFA, f := 0x60 } 0xD000 0x0100 [0x27] [])
    { zero with a := 0xF4, f := 0x40 } 0xD000 0x0101 false (some 1) [] = true := by decide

/-- LG.19 of 95_test_vectors.md (rule R291). -/
theorem test_LG_19 : leaves (machine { zero with f := 0xE0 } 0xD000 0x0100 [0x37] [])
    { zero with f := 0x90 } 0xD000 0x0101 false (some 1) [] = true := by decide

/-- LG.20 of 95_test_vectors.md (rule R292). -/
theorem test_LG_20 : leaves (machine { zero with f := 0x70 } 0xD000 0x0100 [0x3F] [])
    zero 0xD000 0x0101 false (some 1) [] = true := by decide

/-- RS.2 of 95_test_vectors.md (rule R300). -/
theorem test_RS_2 : leaves (machine zero 0xD000 0x0100 [0x07] [])
    zero 0xD000 0x0101 false (some 1) [] = true := by decide

/-- RS.3 of 95_test_vectors.md (rule R301). -/
theorem test_RS_3 : leaves (machine { zero with a := 0x3B } 0xD000 0x0100 [0x0F] [])
    { zero with a := 0x9D, f := 0x10 } 0xD000 0x0101 false (some 1) [] = true := by decide

/-- RS.4 of 95_test_vectors.md (rule R302). -/
theorem test_RS_4 : leaves (machine { zero with a := 0x95, f := 0x10 } 0xD000 0x0100 [0x17] [])
    { zero with a := 0x2B, f := 0x10 } 0xD000 0x0101 false (some 1) [] = true := by decide

/-- RS.6 of 95_test_vectors.md (rule R303). -/
theorem test_RS_6 : leaves (machine { zero with a := 0x81 } 0xD000 0x0100 [0x1F] [])
    { zero with a := 0x40, f := 0x10 } 0xD000 0x0101 false (some 1) [] = true := by decide

/-- RS.7 of 95_test_vectors.md (rule R304). -/
theorem test_RS_7 : leaves (machine { zero with b := 0x85 } 0xD000 0x0100 [0xCB, 0x00] [])
    { zero with b := 0x0B, f := 0x10 } 0xD000 0x0102 false (some 2) [] = true := by decide

/-- RS.9 of 95_test_vectors.md (rule R305). -/
theorem test_RS_9 : leaves (machine { zero with c := 0x01 } 0xD000 0x0100 [0xCB, 0x09] [])
    { zero with c := 0x80, f := 0x10 } 0xD000 0x0102 false (some 2) [] = true := by decide

/-- RS.11 of 95_test_vectors.md (rule R306). -/
theorem test_RS_11 : leaves (machine { zero with f := 0x10, d := 0x11 } 0xD000 0x0100 [0xCB, 0x12] [])
    { zero with d := 0x23 } 0xD000 0x0102 false (some 2) [] = true := by decide

/-- RS.12 of 95_test_vectors.md (rule R307). -/
theorem test_RS_12 : leaves (machine { zero with e := 0x01 } 0xD000 0x0100 [0xCB, 0x1B] [])
    { zero with f := 0x90 } 0xD000 0x0102 false (some 2) [] = true := by decide

/-- RS.14 of 95_test_vectors.md (rule R308). -/
theorem test_RS_14 : leaves (machine { zero with h := 0xC0 } 0xD000 0x0100 [0xCB, 0x06] [(0xC000, 0x80)])
    { zero with h := 0xC0, f := 0x10 } 0xD000 0x0102 false (some 4) [(0xC000, 0x01)] = true := by decide

/-- RS.17 of 95_test_vectors.md (rule R311). -/
theorem test_RS_17 : leaves (machine { zero with h := 0xC0 } 0xD000 0x0100 [0xCB, 0x1E] [(0xC000, 0x01)])
    { zero with f := 0x90, h := 0xC0 } 0xD000 0x0102 false (some 4) [(0xC000, 0x00)] = true := by decide

/-- RS.18 of 95_test_vectors.md (rule R312). -/
theorem test_RS_18 : leaves (machine { zero with h := 0x80 } 0xD000 0x0100 [0xCB, 0x24] [])
    { zero with f := 0x90 } 0xD000 0x0102 false (some 2) [] = true := by decide

/-- RS.20 of 95_test_vectors.md (rule R313). -/
theorem test_RS_20 : leaves (machine { zero with a := 0x81 } 0xD000 0x0100 [0xCB, 0x2F] [])
    { zero with a := 0xC0, f := 0x10 } 0xD000 0x0102 false (some 2) [] = true := by decide

/-- RS.22 of 95_test_vectors.md (rule R314). -/
theorem test_RS_22 : leaves (machine { zero with a := 0x81 } 0xD000 0x0100 [0xCB, 0x3F] [])
    { zero with a := 0x40, f := 0x10 } 0xD000 0x0102 false (some 2) [] = true := by decide

/-- RS.24 of 95_test_vectors.md (rule R315). -/
theorem test_RS_24 : leaves (machine { zero with h := 0xC0 } 0xD000 0x0100 [0xCB, 0x26] [(0xC000, 0xFF)])
    { zero with h := 0xC0, f := 0x10 } 0xD000 0x0102 false (some 4) [(0xC000, 0xFE)] = true := by decide

/-- RS.25 of 95_test_vectors.md (rule R316). -/
theorem test_RS_25 : leaves (machine { zero with h := 0xC0 } 0xD000 0x0100 [0xCB, 0x2E] [(0xC000, 0x80)])
    { zero with h := 0xC0 } 0xD000 0x0102 false (some 4) [(0xC000, 0xC0)] = true := by decide

/-- RS.26 of 95_test_vectors.md (rule R317). -/
theorem test_RS_26 : leaves (machine { zero with h := 0xC0 } 0xD000 0x0100 [0xCB, 0x3E] [(0xC000, 0x02)])
    { zero with h := 0xC0 } 0xD000 0x0102 false (some 4) [(0xC000, 0x01)] = true := by decide

/-- RS.27 of 95_test_vectors.md (rule R318). -/
theorem test_RS_27 : leaves (machine { zero with a := 0xF1, f := 0x70 } 0xD000 0x0100 [0xCB, 0x37] [])
    { zero with a := 0x1F } 0xD000 0x0102 false (some 2) [] = true := by decide

/-- RS.29 of 95_test_vectors.md (rule R319). -/
theorem test_RS_29 : leaves (machine { zero with h := 0xC0 } 0xD000 0x0100 [0xCB, 0x36] [(0xC000, 0xAB)])
    { zero with h := 0xC0 } 0xD000 0x0102 false (some 4) [(0xC000, 0xBA)] = true := by decide

/-- BT.1 of 95_test_vectors.md (rule R340). -/
theorem test_BT_1 : leaves (machine { zero with a := 0x80, f := 0x50 } 0xD000 0x0100 [0xCB, 0x7F] [])
    { zero with a := 0x80, f := 0x30 } 0xD000 0x0102 false (some 2) [] = true := by decide

/-- BT.4 of 95_test_vectors.md (rule R341). -/
theorem test_BT_4 : leaves (machine { zero with h := 0xC0 } 0xD000 0x0100 [0xCB, 0x46] [(0xC000, 0xFE)])
    { zero with f := 0xA0, h := 0xC0 } 0xD000 0x0102 false (some 3) [] = true := by decide

/-- BT.7 of 95_test_vectors.md (rule R342). -/
theorem test_BT_7 : leaves (machine { zero with f := 0xF0, b := 0x80 } 0xD000 0x0100 [0xCB, 0xB8] [])
    { zero with f := 0xF0 } 0xD000 0x0102 false (some 2) [] = true := by decide

/-- BT.8 of 95_test_vectors.md (rule R343). -/
theorem test_BT_8 : leaves (machine { zero with h := 0xC0 } 0xD000 0x0100 [0xCB, 0x86] [(0xC000, 0x01)])
    { zero with h := 0xC0 } 0xD000 0x0102 false (some 4) [(0xC000, 0x00)] = true := by decide

/-- BT.10 of 95_test_vectors.md (rule R344). -/
theorem test_BT_10 : leaves (machine zero 0xD000 0x0100 [0xCB, 0xFA] [])
    { zero with d := 0x80 } 0xD000 0x0102 false (some 2) [] = true := by decide

/-- BT.11 of 95_test_vectors.md (rule R345). -/
theorem test_BT_11 : leaves (machine { zero with h := 0xC0 } 0xD000 0x0100 [0xCB, 0xFE] [(0xC000, 0x7F)])
    { zero with h := 0xC0 } 0xD000 0x0102 false (some 4) [(0xC000, 0xFF)] = true := by decide

/-- CT.1 of 95_test_vectors.md (rule R361). -/
theorem test_CT_1 : leaves (machine zero 0xD000 0x0100 [0xC3, 0x50, 0x01] [])
    zero 0xD000 0x0150 false (some 4) [] = true := by decide

/-- CT.5 of 95_test_vectors.md (rule R362). -/
theorem test_CT_5 : leaves (machine { zero with f := 0x10 } 0xD000 0x0100 [0xD2, 0x50, 0x01] [])
    { zero with f := 0x10 } 0xD000 0x0103 false (some 3) [] = true := by decide

/-- CT.7 of 95_test_vectors.md (rule R363). -/
theorem test_CT_7 : leaves (machine { zero with h := 0x12, l := 0x34 } 0xD000 0x0100 [0xE9] [])
    { zero with h := 0x12, l := 0x34 } 0xD000 0x1234 false (some 1) [] = true := by decide

/-- CT.11 of 95_test_vectors.md (rule R364). -/
theorem test_CT_11 : leaves (machine zero 0xD000 0x0000 [0x18, 0xFD] [])
    zero 0xD000 0xFFFF false (some 3) [] = true := by decide

/-- CT.12 of 95_test_vectors.md (rule R365). -/
theorem test_CT_12 : leaves (machine zero 0xD000 0x0100 [0x20, 0x05] [])
    zero 0xD000 0x0107 false (some 3) [] = true := by decide

/-- CT.15 of 95_test_vectors.md (rule R365). -/
theorem test_CT_15 : leaves (machine { zero with f := 0x10 } 0xD000 0x0100 [0x30, 0xFC] [])
    { zero with f := 0x10 } 0xD000 0x0102 false (some 2) [] = true := by decide

/-- CT.17 of 95_test_vectors.md (rule R366). -/
theorem test_CT_17 : leaves (machine zero 0x0001 0x8000 [0xCD, 0x34, 0x12] [])
    zero 0xFFFF 0x1234 false (some 6) [(0x0000, 0x80), (0xFFFF, 0x03)] = true := by decide

/-- CT.19 of 95_test_vectors.md (rule R367). -/
theorem test_CT_19 : leaves (machine zero 0xD000 0x8000 [0xCC, 0x34, 0x12] [])
    zero 0xD000 0x8003 false (some 3) [] = true := by decide

/-- CT.21 of 95_test_vectors.md (rule R368). -/
theorem test_CT_21 : leaves (machine zero 0xD000 0x8000 [0xFF] [])
    zero 0xCFFE 0x0038 false (some 4) [(0xCFFE, 0x01), (0xCFFF, 0x80)] = true := by decide

/-- CT.22 of 95_test_vectors.md (rule R369). -/
theorem test_CT_22 : leaves (machine zero 0xD000 0x0100 [0xC9] [(0xD000, 0x03), (0xD001, 0x80)])
    zero 0xD002 0x8003 false (some 4) [] = true := by decide

/-- CT.23 of 95_test_vectors.md (rule R370). -/
theorem test_CT_23 : leaves (machine zero 0xD000 0x0100 [0xD0] [(0xD000, 0x03), (0xD001, 0x80)])
    zero 0xD002 0x8003 false (some 5) [] = true := by decide

/-- CT.24 of 95_test_vectors.md (rule R370). -/
theorem test_CT_24 : leaves (machine { zero with f := 0x10 } 0xD000 0x0100 [0xD0] [(0xD000, 0x03), (0xD001, 0x80)])
    { zero with f := 0x10 } 0xD000 0x0101 false (some 2) [] = true := by decide

/-- CT.25 of 95_test_vectors.md (rule R371). -/
theorem test_CT_25 : leaves (machine zero 0xD000 0x0040 [0xD9] [(0xD000, 0x03), (0xD001, 0x80)])
    zero 0xD002 0x8003 true (some 4) [] = true := by decide

/-- SY.1 of 95_test_vectors.md (rule R380). -/
theorem test_SY_1 : leaves (machine zero 0xD000 0x0100 [0x00] [])
    zero 0xD000 0x0101 false (some 1) [] = true := by decide

/-- SY.2 of 95_test_vectors.md (rule R381). -/
theorem test_SY_2 : leaves { machine zero 0xD000 0x0100 [0xF3] [] with ime := true }
    zero 0xD000 0x0101 false (some 1) [] = true := by decide

/-- SY.3 of 95_test_vectors.md (rule R382). -/
theorem test_SY_3 : leaves (machine zero 0xD000 0x0100 [0xFB] [])
    zero 0xD000 0x0101 true (some 1) [] = true := by decide

/-- SY.4 of 95_test_vectors.md (rule R383). -/
theorem test_SY_4 : leaves (machine zero 0xD000 0x0100 [0x76] [])
    zero 0xD000 0x0101 false (none) [] = true := by decide

/-- SY.5 of 95_test_vectors.md (rule R384): the fault is recorded and nothing else of the CORE changes. -/
theorem test_SY_5 : step (machine zero 0xD000 0x0150 [0x10] []) =
    .next { machine zero 0xD000 0x0150 [0x10] [] with
      fault := some (.stopUnimplemented 0x0150 0x10), bus := [.read 0x0150 0x10], cycle := 1 } := rfl

/-- SY.6 of 95_test_vectors.md (rule R413). -/
theorem test_SY_6 : step (machine zero 0xD000 0x0150 [0xD3] []) =
    .next { machine zero 0xD000 0x0150 [0xD3] [] with
      fault := some (.unmappedOpcode 0x0150 0xD3), bus := [.read 0x0150 0xD3], cycle := 1 } := rfl

/-! ### The tick: single steps from section 4 of 95_test_vectors.md -/

/-- I.2 (rules R405, R407): bit 1 before bit 3. -/
theorem test_interrupt_priority :
    leaves { machine zero 0xD000 0x0200 [] [(0xFFFF, 0x0A), (0xFF0F, 0x0A)] with ime := true } zero 0xCFFE 0x0048 false (some 5)
      [(0xCFFE, 0x00), (0xCFFF, 0x02), (0xFF0F, 0x08)] = true := by decide

/-- I.5 (rule R404): bits 7:5 never request. -/
theorem test_upper_bits_never_request :
    leaves { machine zero 0xD000 0x0200 [0x00] [(0xFFFF, 0xE0), (0xFF0F, 0xE0)] with ime := true } zero 0xD000 0x0201 true (some 1)
      [(0xFF0F, 0xE0)] = true := by decide

/-- I.20 (rules R407, R65): the push may write IE itself; the entry was chosen before. -/
theorem test_entry_push_into_IE :
    leaves { machine zero 0x0001 0x1234 [] [(0xFFFF, 0x01), (0xFF0F, 0x01)] with ime := true } zero 0xFFFF 0x0040 false (some 5)
      [(0xFFFF, 0x34), (0x0000, 0x12), (0xFF0F, 0x00)] = true := by decide

/-- The tick 20 of I.11 (rules R402, R418): the environment's write before the tick wakes the CORE on that tick. -/
theorem test_wake_and_entry :
    leaves { machine zero 0xD000 0x0301 [0x00] [(0xFFFF, 0x04)] with
        ime := true, sched := none, cycle := 20, env := [{ cycle := 20, addr := 0xFF0F, value := 0x04 }] }
      zero 0xCFFE 0x0050 false (some 25) [(0xCFFE, 0x01), (0xCFFF, 0x03), (0xFF0F, 0x00)] = true := by decide

/-- The tick 20 of I.10 (rules R402, R423): with IME off the next instruction runs on that same tick. -/
theorem test_wake_without_entry :
    leaves { machine zero 0xD000 0x0301 [0x00] [(0xFFFF, 0x04)] with
        sched := none, cycle := 20, env := [{ cycle := 20, addr := 0xFF0F, value := 0x04 }] }
      zero 0xD000 0x0302 false (some 21) [(0xFF0F, 0x04)] = true := by decide

/-- I.9 (rule R403): a cycle gone by is never caught up. -/
theorem test_missed_cycle :
    leaves { machine zero 0xD000 0x0200 [0x04] [] with sched := some 5, cycle := 6 } zero 0xD000 0x0200 false (some 5) [] =
      true := by decide

/-- I.19 (rule R416): after a fault the environment's write is stored and nothing acts on it. -/
theorem test_faulted_latch_still_written :
    step { machine zero 0xD000 0x0200 [0xD3] [(0xFFFF, 0x01)] with
        ime := true, fault := some (.unmappedOpcode 0x0200 0xD3), cycle := 1
        env := [{ cycle := 1, addr := 0xFF0F, value := 0x01 }] } =
      .next { machine zero 0xD000 0x0200 [0xD3] [(0xFFFF, 0x01)] with
        ime := true, fault := some (.unmappedOpcode 0x0200 0xD3), cycle := 2, iflag := 0x01 } := rfl

/-- R61: nothing claims the address, so the fetch reads 0xFF, which is RST 0x38. -/
theorem test_unclaimed_fetch :
    leaves { machine zero 0xD000 0x8000 [] [] with platform := { components := [], coreClaimsFirst := true } } zero 0xCFFE 0x0038
      false (some 4) [] = true := by decide

/-! ### Witnesses: every statement with hypotheses has a state and operands that meet them -/

/-- A state that no tick from reset has visited: LD B,C at 0x0100, with a stack in HRAM and HL at the top of RAM. -/
def sample : State := machine { zero with c := 0x22, f := 0xB0, h := 0xFF, l := 0x7F } 0xFFFE 0x0100 [0x41] [(0xFF85, 0x12)]

theorem sample_clean : sample.MemClean := by decide

theorem sample_inv : sample.Inv := ⟨by decide, sample_clean, by decide⟩

theorem witness_EveryStepKeepsTheInvariant : ∃ s t, s.Inv ∧ step s = .next t ∧ t ≠ s :=
  ⟨sample, _, sample_inv, rfl, by decide⟩

theorem witness_DecodeOfEncodeIsTheInstruction :
    WellFormed (.bitR8 7 .h) = true ∧ WellFormed (.callCcN16 .c 0xFFFF) = true ∧ WellFormed (.unmapped 0xFD) = true := by decide

theorem witness_EncodeOfDecodeIsTheBytes :
    decode [0x10, 0xAB, 0xFF] = .ok (.stop, [0xFF]) ∧ decode [0x21, 0xC4, 0xB1] = .ok (.ldR16N16 .hl 0xB1C4, []) ∧
      decode [0xFD, 0x00, 0xFF] = .ok (.unmapped 0xFD, [0x00, 0xFF]) := ⟨rfl, rfl, rfl⟩

theorem witness_TheElevenUnmappedSlots :
    (decodeBytes 0xD3 0 0).descriptor = none ∧ (decodeBytes 0xFD 0 0).descriptor = none ∧
      (decodeBytes 0xFF 0 0).descriptor ≠ none := by decide

theorem witness_PairsAliasTheirRegisters :
    (Reg.f, 0xF0#8) ∈ pairValue .af 0x12FF ∧ Reg.b ∉ (pairValue .af 0x12FF).map Prod.fst := by decide

/-- The boundaries 99 + 99 + 1 and 0 - 99 - 1. -/
theorem witness_DecimalAdjustGivesDecimalArithmetic :
    (99 < 100 ∧ 0 < 100) ∧ (bcdAdjust (add8 0x99 0x99 true).v false true true).v = 0x99 ∧
      (bcdAdjust (sub8 0x00 0x99 true).v true true true).v = 0x00 := by decide

theorem witness_CoreElementsOnTheBus :
    sample.platform.coreClaimsFirst = true ∧ sample.MemClean ∧ sample.hram 0 = 0x00 ∧ sample.hram 5 = 0x12 ∧
      ∃ b : Word, b ≠ 0xFF80 + BitVec.ofNat 16 126 ∧ sample.stored b = 0x41 :=
  ⟨by decide, sample_clean, by decide, by decide, 0x0100, by decide, by decide⟩

/-- A platform of a device at 0xFF00-0xFF7F, asked before RAM at 0x8000-0xFF70, and nothing below; at the CORE's addresses
another component is asked first. -/
def mixed : Platform :=
  { components := [{ lo := 0xFF00, hi := 0xFF7F, kind := .device }, { lo := 0x8000, hi := 0xFF70, kind := .ram }]
    coreClaimsFirst := false }

/-- The sample state on that platform. -/
def onMixed : State := { sample with platform := mixed }

theorem witness_BusAnswersAsTheContractSays :
    (coreClaims 0x7FFF = false ∧ ∀ x ∈ mixed.components, ¬(x.lo.toNat ≤ 0x7FFF ∧ 0x7FFF ≤ x.hi.toNat)) ∧
    (coreClaims 0xFF00 = false ∧ mixed.claimant 0xFF00 = some .device) ∧
    (coreClaims 0xFEFF = false ∧ ∃ before x after, mixed.components = before ++ x :: after ∧
      (∀ y ∈ before, ¬(y.lo.toNat ≤ 0xFEFF ∧ 0xFEFF ≤ y.hi.toNat)) ∧ x.lo.toNat ≤ 0xFEFF ∧ 0xFEFF ≤ x.hi.toNat ∧
      x.kind = .ram) :=
  ⟨by decide, by decide, by decide, [{ lo := 0xFF00, hi := 0xFF7F, kind := .device }], { lo := 0x8000, hi := 0xFF70, kind := .ram },
    [], rfl, by decide, by decide, by decide, rfl⟩

theorem witness_BusAnswersAsTheContractSays_core :
    onMixed.platform.coreClaimsFirst = false ∧ coreClaims 0xFF0F = true ∧ coreClaims 0xFF80 = true ∧
      coreClaims 0xFFFE = true ∧ coreClaims 0xFFFF = true := by decide

/-- Where nothing claims, where the device alone does, and where RAM lies behind the device. -/
theorem witness_BusAnswersAsTheContractSays_held :
    onMixed.holds 0x7FFF = false ∧ onMixed.holds 0xFF71 = false ∧ mixed.claimant 0xFF71 = some .device ∧
      onMixed.holds 0xFF70 = true := by decide

theorem witness_ReadsSeeTheMostRecentWrite :
    sample.MemClean ∧ sample.readsBack 0xFFFF = true ∧ sample.readsBack 0x0000 = true ∧ (0x0000 : Word) ≠ 0xFFFF :=
  ⟨sample_clean, by decide, by decide, by decide⟩

theorem witness_PopAfterPushRestores :
    sample.MemClean ∧ sample.readsBack (sample.sp - 2) = true ∧ sample.readsBack (sample.sp - 1) = true :=
  ⟨sample_clean, by decide, by decide⟩

theorem witness_StoresThroughHL : sample.MemClean ∧ ∃ t, exec (.ldHLR8 .h) sample = .next t ∧ t.stored 0xFF7F = 0xFF :=
  ⟨sample_clean, _, rfl, by decide⟩

theorem witness_StoresOfA : sample.MemClean ∧ ∃ t, exec (.ldhN8A 0xFF) sample = .next t ∧ t.ie = 0x00 :=
  ⟨sample_clean, _, rfl, by decide⟩

theorem witness_LoadsAndStoresThatStepHL : sample.MemClean ∧ ∃ t, exec .ldHLIA sample = .next t ∧ t.pair .hl = 0xFF80 :=
  ⟨sample_clean, _, rfl, by decide⟩

theorem witness_SixteenBitLoads : sample.MemClean ∧ ∃ t, exec (.ldN16SP 0xFFFF) sample = .next t ∧ t.ie = 0xFE ∧ t.stored 0 = 0xFF :=
  ⟨sample_clean, _, rfl, by decide, by decide⟩

theorem witness_PushAndPopOfAPair : sample.MemClean ∧ ∃ t, exec (.pushR16 .af) sample = .next t ∧ t.stored 0xFFFC = 0xB0 :=
  ⟨sample_clean, _, rfl, by decide⟩

theorem witness_IncrementAndDecrementBytes : sample.MemClean ∧ ∃ t, exec .decHL sample = .next t ∧ t.stored 0xFF7F = 0xFF :=
  ⟨sample_clean, _, rfl, by decide⟩

theorem witness_RotatesShiftsAndSwapThroughHL : sample.MemClean ∧ ∃ t, exec .rlHL sample = .next t ∧ t.stored 0xFF7F = 0x01 :=
  ⟨sample_clean, _, rfl, by decide⟩

theorem witness_BitResetsAndSets : sample.MemClean ∧ ∃ t, exec (.setHL 7) sample = .next t ∧ t.stored 0xFF7F = 0x80 :=
  ⟨sample_clean, _, rfl, by decide⟩

theorem witness_CallsAndRestarts : sample.MemClean ∧ ∃ t, exec (.rstU3 7) sample = .next t ∧ t.pc = 0x0038 :=
  ⟨sample_clean, _, rfl, by decide⟩

theorem witness_StopAndUnmappedRecordTheFaultOnly :
    (0xFD : Byte) ∈ ([0xD3, 0xDB, 0xDD, 0xE3, 0xE4, 0xEB, 0xEC, 0xED, 0xF4, 0xFC, 0xFD] : List Byte) := by decide

/-- Both ways not to be interrupted: IME off, and IME on with nothing pending. -/
theorem witness_AStepRunsTheDecodedInstruction :
    ∀ s ∈ [sample, { sample with ime := true }], Dispatches s.takeEnv ∧ (s.takeEnv.ime = false ∨ s.takeEnv.pending = 0) ∧
      s.takeEnv.answer s.takeEnv.pc = 0x41 ∧ decode [0x41, 0x00, 0x00] = .ok (.ldR8R8 .b .c, [0x00, 0x00]) ∧
      Instr.ldR8R8 .b .c ≠ .stop ∧ ∀ b, Instr.ldR8R8 .b .c ≠ .unmapped b := by
  intro s hs
  simp only [List.mem_cons, List.not_mem_nil, or_false] at hs
  rcases hs with rfl | rfl
  · exact ⟨⟨rfl, rfl⟩, .inl rfl, by decide, rfl, by decide, fun _ => nofun⟩
  · exact ⟨⟨rfl, rfl⟩, .inr rfl, by decide, rfl, by decide, fun _ => nofun⟩

/-- A slot with no descriptor, STOP, and the prefix. -/
theorem witness_AFaultingTickIsPrecise :
    ∀ b ∈ ([0xFD, 0x10, 0xCB] : List Byte), ∃ s : State, Dispatches s.takeEnv ∧ s.takeEnv.ime = false ∧
      s.takeEnv.answer s.takeEnv.pc = b := by
  intro b hb
  simp only [List.mem_cons, List.not_mem_nil, or_false] at hb
  rcases hb with rfl | rfl | rfl
  · exact ⟨machine zero 0 0x0100 [0xFD] [], ⟨rfl, rfl⟩, rfl, by decide⟩
  · exact ⟨machine zero 0 0x0100 [0x10] [], ⟨rfl, rfl⟩, rfl, by decide⟩
  · exact ⟨machine zero 0 0x0100 [0xCB] [], ⟨rfl, rfl⟩, rfl, by decide⟩

/-- Parked at a STOP, with source 4 pending and enabled. -/
def parked : State := { machine zero 0xD000 0x0301 [0x10] [(0xFFFF, 0x10), (0xFF0F, 0xF0)] with sched := none, cycle := 7 }

/-- STOP, and the first and the last unmapped slot. -/
theorem witness_AFaultOnTheWakeTickLeavesTheCoreParked :
    ∀ b ∈ ([0x10, 0xD3, 0xFD] : List Byte), let e := (parked.store 0x0301 b).takeEnv
      e.fault = none ∧ e.sched = none ∧ e.pending ≠ 0 ∧ e.ime = false ∧ e.answer e.pc = b := by decide

theorem witness_AFaultedCoreIsQuiescent : ({ sample with fault := some (.stopUnimplemented 0 0x10) } : State).fault ≠ none := by decide

/-- A tick before the scheduled cycle, and one after it. -/
theorem witness_AnIdleTickChangesNothing :
    ∀ c ∈ [4, 6], ∃ s : State, s.takeEnv.fault = none ∧ s.takeEnv.sched = some 5 ∧ s.cycle = c ∧ 5 ≠ c := by
  intro c hc
  simp only [List.mem_cons, List.not_mem_nil, or_false] at hc
  rcases hc with rfl | rfl
  · exact ⟨{ sample with sched := some 5, cycle := 4 }, rfl, rfl, rfl, by decide⟩
  · exact ⟨{ sample with sched := some 5, cycle := 6 }, rfl, rfl, rfl, by decide⟩

/-- Something pending, at a STOP, at an unmapped slot and at a NOP; and nothing pending. -/
theorem witness_AParkedCoreWakesOnAPendingInterrupt :
    (∀ b ∈ ([0x10, 0xFD, 0x00] : List Byte), let s := parked.store 0x0301 b
      s.fault = none ∧ s.sched = none ∧ s.ie &&& s.iflag &&& 0x1F ≠ 0 ∧ s.answer s.pc = b) ∧
      ({ sample with sched := none } : State).fault = none ∧ sample.ie &&& sample.iflag &&& 0x1F = 0 := by decide

/-- The highest and the lowest priority, on a scheduled and on a parked CORE. -/
theorem witness_InterruptEntry :
    (let e := ({ machine zero 0x0001 0x0200 [] [(0xFFFF, 0x1F), (0xFF0F, 0x1F)] with ime := true } : State).takeEnv;
      e.MemClean ∧ e.fault = none ∧ e.sched = some e.cycle ∧ e.ime = true ∧ (e.ie &&& e.iflag).getLsbD 0 = true) ∧
    (let e := ({ parked with ime := true } : State).takeEnv;
      e.MemClean ∧ e.fault = none ∧ e.sched = none ∧ e.ime = true ∧ (e.ie &&& e.iflag).getLsbD 4 = true ∧
        ∀ j < 4, (e.ie &&& e.iflag).getLsbD j = false) := by decide

theorem witness_ReturnFromInterruptRestores :
    parked.MemClean ∧ parked.readsBack (parked.sp - 2) = true ∧ parked.readsBack (parked.sp - 1) = true := by decide

theorem witness_TheEnvironmentOnlyWritesThroughTheBus :
    sample.env = [] ∧
    (∃ (s : State) (w : EnvWrite), s.env = w :: [] ∧ w.cycle ≤ s.cycle) ∧ ∃ (s : State) (w : EnvWrite), s.env = w :: [] ∧ s.cycle < w.cycle :=
  ⟨rfl, ⟨{ sample with env := [⟨0, 0xFF0F, 1⟩] }, ⟨0, 0xFF0F, 1⟩, rfl, by decide⟩,
    ⟨{ sample with env := [⟨1, 0xFF0F, 1⟩] }, ⟨1, 0xFF0F, 1⟩, rfl, by decide⟩⟩

theorem witness_OnlyTheNamedInstructionsWriteIMEAndSP :
    (∃ t, exec .ei sample = .next t ∧ t.ime ≠ sample.ime) ∧ ∃ t, exec (.incR16 .af) sample = .next t ∧ t.sp ≠ sample.sp :=
  ⟨⟨_, rfl, by decide⟩, _, rfl, by decide⟩

theorem witness_EveryOtherInstructionCompletesAndSchedIncreases :
    Instr.prefixCB 0xBE ≠ .stop ∧ (∀ b, Instr.prefixCB 0xBE ≠ .unmapped b) ∧ sample.sched = some 0 ∧ Instr.prefixCB 0xBE ≠ .halt :=
  ⟨by decide, fun _ => nofun, rfl, by decide⟩

theorem witness_AStepMakesAtMostFiveBusTransactions : ∃ s t, step s = .next t ∧ t.bus.length = 5 :=
  ⟨machine zero 0xD000 0x8000 [0xCD, 0x34, 0x12] [], _, rfl, by decide⟩

end Sys2Proof.Tests
end

section
/-! SUPPORT. How an instruction ends and what a tick and a step do, each said once; then the statements about the state
(10_state.md). -/

namespace Sys2Proof

/-- Whether an instruction may write IME (R28). -/
def Instr.writesIME : Instr → Bool
  | .di | .ei | .reti => true
  | _ => false

/-- Whether an instruction may write SP: by name, or by a pair code that stands for SP (R25, R27). -/
def Instr.writesSP : Instr → Bool
  | .pushR16 _ | .popR16 _ | .callN16 _ | .callCcN16 _ _ | .rstU3 _ | .ret | .retCc _ | .reti | .ldSPHL | .addSPE8 _ => true
  | .ldR16N16 .af _ | .incR16 .af | .decR16 .af => true
  | _ => false

theorem Instr.writesIME_cases {i : Instr} (h : i.writesIME = true) : i = .di ∨ i = .ei ∨ i = .reti := by
  cases i
  case di | ei | reti => simp
  all_goals cases h

theorem Instr.writesSP_cases {i : Instr} (h : i.writesSP = true) :
    (∃ p, i = .pushR16 p) ∨ (∃ p, i = .popR16 p) ∨ (∃ n, i = .callN16 n) ∨ (∃ cc n, i = .callCcN16 cc n) ∨
      (∃ u, i = .rstU3 u) ∨ i = .ret ∨ (∃ cc, i = .retCc cc) ∨ i = .reti ∨ i = .ldSPHL ∨ (∃ n, i = .ldR16N16 .af n) ∨
      i = .incR16 .af ∨ i = .decR16 .af ∨ ∃ e, i = .addSPE8 e := by
  cases i
  case pushR16 | popR16 | callN16 | callCcN16 | rstU3 | ret | retCc | reti | ldSPHL | addSPE8 => simp
  case ldR16N16 p _ | incR16 p | decR16 p =>
    cases p
    case af => simp
    all_goals cases h
  all_goals cases h

/-- A row of the opcode table costs 1 to 6 cycles, whether its condition holds or not (R118, R411). -/
theorem rowDescriptor_cost {i : Instr} {d : Descriptor} (h : rowDescriptor i = some d) :
    1 ≤ d.cycles ∧ d.cycles + d.extra ≤ 6 := by
  cases i <;> cases h <;> decide

/-- A prefixed byte selects a row of the prefixed kind (R116). -/
theorem rowDescriptor_decodePrefixed_kind (b : Byte) :
    (rowDescriptor (decodePrefixed b)).map Descriptor.kind = some .prefixed := by
  revert b; decide

/-- What an instruction is not, told by a row of the prefixed kind. -/
theorem decodePrefixed_ne {b : Byte} {i : Instr} (hi : (rowDescriptor i).map Descriptor.kind ≠ some .prefixed) :
    decodePrefixed b ≠ i :=
  fun h => hi (h ▸ rowDescriptor_decodePrefixed_kind b)

theorem decodePrefixed_ne_prefixCB (b c : Byte) : decodePrefixed b ≠ .prefixCB c := decodePrefixed_ne nofun

theorem Instr.descriptor_of_ne_prefixCB {i : Instr} (hi : ∀ b, i ≠ .prefixCB b) : i.descriptor = rowDescriptor i := by
  unfold Instr.descriptor
  split
  next b => exact absurd rfl (hi b)
  next => rfl

/-- The prefix has the descriptor of the row it selects (R409). -/
theorem Instr.descriptor_prefixCB (b : Byte) : (Instr.prefixCB b).descriptor = (decodePrefixed b).descriptor :=
  (descriptor_of_ne_prefixCB (decodePrefixed_ne_prefixCB b)).symm

/-- No prefixed row writes IME or SP. -/
theorem decodePrefixed_writes (b : Byte) :
    (decodePrefixed b).writesIME = false ∧ (decodePrefixed b).writesSP = false := by
  revert b; decide

/-- Every instruction with a descriptor costs 1 to 6 cycles, whether its condition holds or not (R411). -/
theorem Instr.cost_bounds {i : Instr} (h : i.descriptor ≠ none) : 1 ≤ i.cycles ∧ i.cycles + i.extraCycles ≤ 6 := by
  obtain ⟨d, hd⟩ := Option.ne_none_iff_exists'.mp h
  have hrow : ∃ j, rowDescriptor j = some d := by
    unfold Instr.descriptor at hd
    split at hd <;> exact ⟨_, hd⟩
  obtain ⟨j, hj⟩ := hrow
  simpa [Instr.cycles, Instr.extraCycles, hd] using rowDescriptor_cost hj

end Sys2Proof

namespace Sys2Proof.Machine

/-! ### An instruction -/

/-- `u` is `s` after the work of `i` and before its end: sched and the fault record are untouched, IME and SP too unless
`i` is one of the instructions named to write them. -/
structure Works (i : Instr) (s u : State) : Prop where
  sched : u.sched = s.sched
  fault : u.fault = s.fault
  ime : i.writesIME = false → u.ime = s.ime
  sp : i.writesSP = false → u.sp = s.sp

/-- The three ways an instruction ends: it completes (R410, R411), it parks the CORE (R412), or it records a fault and
does nothing else (R384, R413). -/
inductive Ends (i : Instr) (s t : State) : Prop
  | completes {u : State} (target : Word) (taken : Bool) (mapped : i.descriptor ≠ none) (work : Works i s u)
      (eq : t = u.complete i target taken)
  | parks (halt : i = .halt) (eq : t = { s with pc := s.nextPC .halt, sched := none })
  | faults (f : Fault)
      (unmeant : (i = .stop ∧ f = .stopUnimplemented s.pc 0x10) ∨ ∃ b, i = .unmapped b ∧ f = .unmappedOpcode s.pc b)
      (eq : t = s.raise f)

namespace Works

variable {i : Instr} {s u : State}

/-- Work that touches none of the four. -/
theorem of_frame (h : u.sched = s.sched ∧ u.fault = s.fault ∧ u.ime = s.ime ∧ u.sp = s.sp) : Works i s u :=
  let ⟨sched, fault, ime, sp⟩ := h
  ⟨sched, fault, fun _ => ime, fun _ => sp⟩

theorem refl : Works i s s := of_frame ⟨rfl, rfl, rfl, rfl⟩

/-- The work of an instruction named to write SP. -/
theorem of_writesSP (hw : i.writesSP = true) (h : u.sched = s.sched ∧ u.fault = s.fault ∧ u.ime = s.ime) : Works i s u :=
  let ⟨sched, fault, ime⟩ := h
  ⟨sched, fault, fun _ => ime, fun hn => Bool.noConfusion (hn.symm.trans hw)⟩

/-- The work of an instruction named to write IME. -/
theorem of_writesIME (hw : i.writesIME = true)
    (h : u.sched = s.sched ∧ u.fault = s.fault ∧ (i.writesSP = false → u.sp = s.sp)) : Works i s u :=
  let ⟨sched, fault, sp⟩ := h
  ⟨sched, fault, fun hn => Bool.noConfusion (hn.symm.trans hw), sp⟩

/-- The work of a 16-bit instruction whose pair code 11 stands for SP (R27). -/
theorem setPairSP {p : Pair} {v : Word} (hw : p = .af → i.writesSP = true) : Works i s (s.setPairSP p v) := by
  by_cases hp : p = .af
  · exact of_writesSP (hw hp) (by simp)
  · exact of_frame (by simp [hp])

/-- The work of a prefixed row is the work of the prefix that selects it (R409). -/
theorem of_decodePrefixed {b : Byte} (h : Works (decodePrefixed b) s u) : Works (.prefixCB b) s u :=
  have ⟨hime, hsp⟩ := decodePrefixed_writes b
  of_frame ⟨h.sched, h.fault, h.ime hime, h.sp hsp⟩

end Works

/-- An instruction whose meaning is "work, then complete". -/
theorem Ends.of_complete {i : Instr} {s t u : State} {target : Word} {taken : Bool}
    (h : (.next (u.complete i target taken) : Result) = .next t) (mapped : i.descriptor ≠ none) (work : Works i s u) :
    Ends i s t := by
  cases h
  exact .completes target taken mapped work rfl

/-- A conditional transfer: it completes with its work done, or retires with none (R360). -/
theorem Ends.of_conditional {i : Instr} {s t u : State} {target : Word} {c : Bool}
    (h : (.next (if c then u.complete i target true else s.retire i) : Result) = .next t) (mapped : i.descriptor ≠ none)
    (work : Works i s u) : Ends i s t := by
  cases c
  · exact .of_complete h mapped .refl
  · exact .of_complete h mapped work

/-- How each instruction but the prefix ends. -/
theorem exec_ends_plain {i : Instr} (hi : ∀ b, i ≠ .prefixCB b) {s t : State} (h : exec i s = .next t) : Ends i s t := by
  cases i
  case prefixCB b => exact absurd rfl (hi b)
  case halt =>
    cases h
    exact .parks rfl rfl
  case stop =>
    cases h
    exact .faults _ (.inl ⟨rfl, rfl⟩) rfl
  case unmapped b =>
    cases h
    exact .faults _ (.inr ⟨b, rfl, rfl⟩) rfl
  case jpCcN16 | jrCcE8 => exact .of_conditional h nofun .refl
  case callCcN16 | retCc => exact .of_conditional h nofun (.of_writesSP rfl (by simp))
  case pushR16 | popR16 | callN16 | rstU3 | ret | ldSPHL | addSPE8 =>
    exact .of_complete h nofun (.of_writesSP rfl (by simp))
  case ldR16N16 | incR16 | decR16 => exact .of_complete h nofun (.setPairSP fun hp => hp ▸ rfl)
  case di | ei => exact .of_complete h nofun (.of_writesIME rfl (by simp))
  case reti => exact .of_complete h nofun (.of_writesIME rfl ⟨rfl, rfl, nofun⟩)
  all_goals exact .of_complete h nofun (.of_frame (by simp))

/-- A prefixed row ends as the prefix that selects it does (R409). -/
theorem Ends.of_decodePrefixed {b : Byte} {s t : State} (h : Ends (decodePrefixed b) s t) : Ends (.prefixCB b) s t := by
  have hd := Instr.descriptor_prefixCB b
  cases h with
  | @completes u target taken mapped work eq =>
    have he : u.complete (decodePrefixed b) target taken = u.complete (.prefixCB b) target taken := by
      simp [State.complete, Instr.cycles, Instr.extraCycles, hd]
    exact .completes target taken (hd ▸ mapped) work.of_decodePrefixed (eq.trans he)
  | parks halt => exact absurd halt (decodePrefixed_ne nofun)
  | faults f unmeant =>
    obtain ⟨stop, -⟩ | ⟨c, unmapped, -⟩ := unmeant
    · exact absurd stop (decodePrefixed_ne nofun)
    · exact absurd unmapped (decodePrefixed_ne nofun)

/-- How every instruction ends. -/
theorem exec_ends {i : Instr} {s t : State} (h : exec i s = .next t) : Ends i s t := by
  by_cases hi : ∃ b, i = .prefixCB b
  · obtain ⟨b, rfl⟩ := hi
    have hb : exec (decodePrefixed b) s = .next t := (execPrefixCB_eq b s).symm.trans h
    exact (exec_ends_plain (decodePrefixed_ne_prefixCB b) hb).of_decodePrefixed
  · exact exec_ends_plain (not_exists.mp hi) h

/-- An instruction that leaves an unfaulted CORE scheduled moves its sched strictly on (R411). -/
theorem exec_sched_lt {i : Instr} {s t : State} (h : exec i s = .next t) (hf : t.fault = none) {n m : Nat}
    (hs : s.sched = some n) (ht : t.sched = some m) : n < m := by
  cases exec_ends h with
  | completes _ _ mapped work eq =>
    have hcost := (Instr.cost_bounds mapped).1
    rw [eq, State.complete_sched, work.sched, hs, Option.map_some, Option.some.injEq] at ht
    omega
  | parks _ eq => cases eq ▸ ht
  | faults f _ eq => cases eq ▸ hf

/-! ### A tick -/

/-- The five things a tick can do (R401): nothing on a faulted CORE, nothing more than the un-park on a cycle that is not
the scheduled one, an interrupt entry, or the instruction at PC, completed or with a fault recorded. -/
inductive Ticks (s t : State) : Prop
  | faulted (fault : s.fault ≠ none) (eq : t = s)
  | idle (fault : s.fault = none) (sched : s.wake.sched ≠ some s.wake.cycle) (eq : t = s.wake)
  | services (dispatch : Dispatches s.wake) (i : Source) (accepted : s.wake.accepted = some i)
      (eq : t = s.wake.enterInterrupt i)
  | runs (dispatch : Dispatches s.wake) (accepted : s.wake.accepted = none)
      (exec_eq : exec s.wake.fetch.1 s.wake.fetch.2 = .next t) (fault : t.fault = none)
  | faults {u : State} (dispatch : Dispatches s.wake) (accepted : s.wake.accepted = none)
      (exec_eq : exec s.wake.fetch.1 s.wake.fetch.2 = .next u) (fault : u.fault ≠ none)
      (eq : t = { u with sched := s.sched })

@[simp] theorem State.wake_fault (s : State) : s.wake.fault = s.fault := by
  unfold State.wake
  split <;> rfl

/-- What every tick does. -/
theorem tick_ticks {s t : State} (h : tick s = .next t) : Ticks s t := by
  unfold tick at h
  split at h
  next hf =>
    cases h
    exact .faulted (Option.isSome_iff_ne_none.mp hf) rfl
  next hf =>
    have hf : s.fault = none := by simpa using hf
    dsimp only at h
    split at h
    next hs =>
      have hd : Dispatches s.wake := ⟨s.wake_fault.trans hf, hs⟩
      split at h
      next i ha =>
        cases h
        exact .services hd i ha rfl
      next ha =>
        obtain ⟨u, hu⟩ := exec_next s.wake.fetch.1 s.wake.fetch.2
        rw [hu, keepSchedOnFault_next] at h
        cases h
        split
        next hfu => exact .faults hd ha hu (Option.isSome_iff_ne_none.mp hfu) rfl
        next hfu => exact .runs hd ha hu (by simpa using hfu)
    next hs =>
      cases h
      exact .idle hf hs rfl

variable (s : State)

namespace Follows

theorem withSched (n : Option Nat) : Follows 0 s { s with sched := n } := of_eq rfl rfl rfl rfl id rfl

theorem withPcSched (w : Word) (n : Option Nat) : Follows 0 s { s with pc := w, sched := n } :=
  of_eq rfl rfl rfl rfl id rfl

theorem wake : Follows 0 s s.wake := by
  unfold State.wake
  split
  · exact withSched s _
  · exact refl

theorem enterInterrupt (i : Source) : Follows 2 s (s.enterInterrupt i) := by
  have h1 : Follows 0 s { s with ime := false, iflag := s.iflag &&& ~~~(1#8 <<< i.bit) } :=
    of_eq rfl rfl rfl rfl id rfl
  unfold State.enterInterrupt
  exact (h1.trans (push16 _ s.pc)).trans (withPcSched _ _ _)

theorem fetch : Follows 3 s s.fetch.2 := by
  obtain ⟨reads, h, hl⟩ := s.fetch_bus
  rw [h]
  exact ⟨rfl, rfl, rfl, id, id, reads, rfl, hl⟩

/-- What a tick leaves alone: it makes at most five bus transactions (R73, R74). -/
theorem tick {s t : State} (h : tick s = .next t) : Follows 5 s t := by
  have hrun {u : State} (hu : exec s.wake.fetch.1 s.wake.fetch.2 = .next u) : Follows 5 s u :=
    ((wake s).trans (fetch _)).trans (exec_follows _ _ _ hu)
  cases tick_ticks h with
  | faulted _ eq => exact eq ▸ refl.mono (Nat.zero_le 5)
  | idle _ _ eq => exact eq ▸ (wake s).mono (Nat.zero_le 5)
  | services _ i _ eq => exact eq ▸ ((wake s).trans (enterInterrupt _ i)).mono (by omega)
  | runs _ _ exec_eq => exact hrun exec_eq
  | faults _ _ exec_eq _ eq => exact eq ▸ (hrun exec_eq).trans (withSched _ _)

end Follows

@[simp] theorem State.wake_cycle : s.wake.cycle = s.cycle := (Follows.wake s).cycle

@[simp] theorem State.fetch_sched : s.fetch.2.sched = s.sched := by
  obtain ⟨reads, h, -⟩ := s.fetch_bus
  rw [h]

@[simp] theorem State.enterInterrupt_sched (i : Source) :
    (s.enterInterrupt i).sched = s.sched.map fun n => n + Config.interruptLatency := by
  simp [State.enterInterrupt]

variable {s}

/-- Un-parking schedules the coming cycle, so it does not make the CORE late (R402). -/
theorem State.OnTime.wake (h : s.OnTime) : s.wake.OnTime := by
  unfold State.wake
  split
  · intro _ n hn
    cases hn
    exact le_rfl
  · exact h

/-- After a tick, sched of an unfaulted CORE is a cycle later than the one ticked (R403, R408, R411). -/
theorem State.OnTime.tick {t : State} (hon : s.OnTime) (h : tick s = .next t) (hf : t.fault = none) {m : Nat}
    (hm : t.sched = some m) : s.cycle < m := by
  cases tick_ticks h with
  | faulted fault eq => exact absurd (eq ▸ hf) fault
  | idle _ sched eq =>
    subst eq
    have hle := hon.wake hf m hm
    rw [hm] at sched
    rw [State.wake_cycle] at hle sched
    exact lt_of_le_of_ne hle fun e => sched (congrArg some e.symm)
  | services dispatch i _ eq =>
    rw [eq, State.enterInterrupt_sched, dispatch.2, State.wake_cycle, Option.map_some, Option.some.injEq,
      Config.interruptLatency] at hm
    omega
  | runs dispatch _ exec_eq =>
    have hs : s.wake.fetch.2.sched = some s.cycle := by rw [State.fetch_sched, dispatch.2, State.wake_cycle]
    exact exec_sched_lt exec_eq hf hs hm
  | faults _ _ _ fault eq =>
    subst eq
    exact absurd hf fault

/-! ### A step -/

/-- The environment's writes keep the invariant (R418). -/
theorem State.Inv.takeEnv (h : s.Inv) : s.takeEnv.Inv where
  flags := by simpa [State.FlagsClean] using h.flags
  mem := State.memClean_takeEnv s h.mem
  onTime := by simpa [State.OnTime] using h.onTime

/-- A step is a tick after the environment's writes, and the count of the cycle (R426). -/
theorem step_eq_next {t : State} (h : step s = .next t) :
    ∃ u, tick s.takeEnv = .next u ∧ t = { u with cycle := u.cycle + 1 } := by
  unfold step at h
  cases hu : tick s.takeEnv with
  | next u =>
    rw [hu, countCycle_next] at h
    exact ⟨u, rfl, (Host.Outcome.next.inj h).symm⟩
  | fault => rw [hu] at h; cases h
  | refused => rw [hu] at h; cases h

/-- Counting the cycle of a tick gives the invariant back. -/
theorem State.Inv.tick_count {u : State} (h : s.Inv) (hu : tick s = .next u) :
    State.Inv { u with cycle := u.cycle + 1 } := by
  have hfol := Follows.tick hu
  refine ⟨hfol.flags h.flags, hfol.mem h.mem, fun hf m hm => ?_⟩
  have hlt : s.cycle < m := h.onTime.tick hu hf hm
  have hc : u.cycle = s.cycle := hfol.cycle
  show u.cycle + 1 ≤ m
  omega

end Sys2Proof.Machine
end

section
namespace Sys2Proof.Machine

/-- Settles O3: the environment's writes and then the tick with its count each keep the invariant. The tick's case is
the inversion of what a tick can do; F and memory follow from `Follows.tick`, sched from `State.OnTime.tick`. -/
theorem everyStepKeepsTheInvariant : Obligations.EveryStepKeepsTheInvariant := by
  intro s t hs h
  obtain ⟨u, hu, rfl⟩ := step_eq_next h
  exact hs.takeEnv.tick_count hu

/-- Settles O57, from the three ways an instruction can end: only its work before the end writes IME or SP. -/
theorem onlyTheNamedInstructionsWriteIMEAndSP : Obligations.OnlyTheNamedInstructionsWriteIMEAndSP := by
  intro i s t h
  suffices hw : (i.writesIME = false → t.ime = s.ime) ∧ (i.writesSP = false → t.sp = s.sp) from
    ⟨fun hne => Instr.writesIME_cases (Bool.eq_true_of_not_eq_false (mt hw.1 hne)),
      fun hne => Instr.writesSP_cases (Bool.eq_true_of_not_eq_false (mt hw.2 hne))⟩
  cases exec_ends h with
  | completes _ _ _ work eq => exact eq ▸ ⟨work.ime, work.sp⟩
  | parks _ eq => exact eq ▸ ⟨fun _ => rfl, fun _ => rfl⟩
  | faults _ _ eq => exact eq ▸ ⟨fun _ => rfl, fun _ => rfl⟩

/-! ### The register pairs -/

theorem hiByte_eq (v : Word) : hiByte v = (v >>> 8).setWidth 8 := extractLsb'_high v

theorem loByte_eq (v : Word) : loByte v = v.setWidth 8 := extractLsb'_low v

/-- Masking the low byte masks the joined value: AF as R23 writes it. -/
theorem joinBytes_and_f0 (x y : Byte) : joinBytes x (y &&& 0xF0) = (x ++ y) &&& 0xFFF0 := by
  calc joinBytes x (y &&& 0xF0) = (x &&& 0xFF#8) ++ (y &&& 0xF0#8) := by rw [byte_and_ff]; rfl
    _ = (x ++ y) &&& (0xFF#8 ++ 0xF0#8) := BitVec.and_append.symm
    _ = (x ++ y) &&& 0xFFF0 := rfl

theorem pairHi_ne_pairLo (p : Pair) : p.hi ≠ p.lo := by cases p <;> decide

/-- The two registers of a pair and what `setPair` writes to them (R22, R24). -/
theorem pairValue_eq (p : Pair) (v : Word) : pairValue p v = [(p.hi, hiByte v), (p.lo, loByte v &&& p.loMask)] := by
  rw [hiByte_eq, loByte_eq]
  cases p <;> simp [pairValue, Pair.hi, Pair.lo, Pair.loMask]

theorem State.setPair_reg_of_mem {s : State} {p : Pair} {v : Word} {r : Reg} {w : Byte} (h : (r, w) ∈ pairValue p v) :
    (s.setPair p v).reg r = w := by
  have hrw : (r = p.hi ∧ w = hiByte v) ∨ (r = p.lo ∧ w = loByte v &&& p.loMask) := by simpa [pairValue_eq] using h
  obtain ⟨rfl, rfl⟩ | ⟨rfl, rfl⟩ := hrw
  · rw [State.reg_setPair, if_neg (pairHi_ne_pairLo p), if_pos rfl]
  · rw [State.reg_setPair, if_pos rfl]

theorem State.setPair_reg_of_notMem {s : State} {p : Pair} {v : Word} {r : Reg} (h : r ∉ (pairValue p v).map Prod.fst) :
    (s.setPair p v).reg r = s.reg r := by
  have hr : r ≠ p.hi ∧ r ≠ p.lo := by simpa [pairValue_eq] using h
  obtain ⟨hhi, hlo⟩ := hr
  rw [State.reg_setPair, if_neg hlo, if_neg hhi]

/-- Reading a pair just written gives the value back, AF without its low nibble (R23, R24). -/
theorem State.pair_setPair_value (s : State) (p : Pair) (v : Word) :
    (s.setPair p v).pair p = if p = .af then v &&& 0xFFF0 else v := by
  rw [State.pair_setPair]
  cases p
  case af =>
    have h := joinBytes_and_f0 (hiByte v) (loByte v)
    exact h.trans (congrArg (· &&& 0xFFF0) (joinBytes_hiByte_loByte v))
  all_goals simp [Pair.loMask]

/-- A pair that keeps its whole low byte is its two registers joined (R23). -/
theorem State.pair_eq_append (s : State) {p : Pair} (hp : p ≠ .af) : s.pair p = s.reg p.hi ++ s.reg p.lo := by
  cases p
  case af => exact absurd rfl hp
  all_goals simp [State.pair, Pair.loMask, joinBytes]

/-- Settles O10, pair by pair: what reading joins, what writing puts where, and code 11 as SP. -/
theorem pairsAliasTheirRegisters : Obligations.PairsAliasTheirRegisters := by
  intro s p v r
  refine ⟨⟨s.pair_eq_append nofun, s.pair_eq_append nofun, s.pair_eq_append nofun, joinBytes_and_f0 _ _⟩,
    fun w => State.setPair_reg_of_mem, State.setPair_reg_of_notMem, s.pair_setPair_value p v, ?_, ?_⟩
  · cases p <;> rfl
  · cases p <;> rfl

/-- Settles O1: reset is written out, and memory with nothing listed reads 0x00. -/
theorem resetLeavesTheValuesOfR36 : Obligations.ResetLeavesTheValuesOfR36 := by
  refine ⟨fun r => ?_, rfl, rfl, rfl, rfl, rfl, fun k => Memory.read_nil _, rfl, rfl, rfl, rfl, rfl, rfl, rfl⟩
  cases r <;> rfl

theorem flagByte_low (z n h c : Bool) : (flagByte z n h c).extractLsb' 0 4 = 0 := by
  revert z n h c; decide

/-- Settles O11, from the read-after-write law of one bit and the round trip of the packed form. -/
theorem bitHelpersAndPackedRecords : Obligations.BitHelpersAndPackedRecords := by
  refine ⟨fun v i j on => ?_, fun p => ⟨setWidth_unpackValue p, ?_⟩, fun b w f => ?_⟩
  · simp only [testBit, testBit_setBit, eq_comm (a := i)]
  · exact (BitVec.setWidth_eq_extractLsb' (by decide)).symm
  · obtain ⟨hz, hn, hh, hc, -⟩ := testBit_flagByte f.z f.n f.h f.c
    refine ⟨⟨rfl, ?_, unpackFlags_packRecord _ _⟩, ⟨rfl, ?_, unpackFlags_packRecord _ _⟩, hz, hn, hh, hc, flagByte_low ..⟩
    · simp [Alu8.pack]
    · simp [Alu16.pack]

end Sys2Proof.Machine
end

section
/-! SUPPORT. Which component answers at an address, and where the HRAM bytes lie; then the statements about the bus and the
stack (20_memory.md). -/

namespace Sys2Proof.Machine

/-! ### The CORE's own addresses (R63) -/

theorem inHram_iff {a : Word} : inHram a = true ↔ 0xFF80 ≤ a.toNat ∧ a.toNat ≤ 0xFFFE := by
  simp [inHram]

/-- The address of HRAM[k] (R31). -/
theorem toNat_hramAddr (k : Fin 127) : ((0xFF80 : Word) + BitVec.ofNat 16 k.val).toNat = 0xFF80 + k.val := by
  have := k.isLt
  simp
  omega

theorem inHram_hramAddr (k : Fin 127) : inHram (0xFF80 + BitVec.ofNat 16 k.val) = true := by
  rw [inHram_iff, toNat_hramAddr]
  omega

theorem coreClaims_of_inHram {a : Word} (h : inHram a = true) : coreClaims a = true := by
  simp [coreClaims, h]

/-! ### The components (R61, R62) -/

theorem Component.covers_iff {c : Component} {a : Word} :
    c.covers a = true ↔ c.lo.toNat ≤ a.toNat ∧ a.toNat ≤ c.hi.toNat := by
  simp [Component.covers]

theorem Platform.claimant_eq_none {p : Platform} {a : Word} (h : ∀ x ∈ p.components, ¬x.covers a = true) :
    p.claimant a = none := by
  rw [Platform.claimant, List.find?_eq_none.mpr h, Option.map_none]

/-- The first component that covers the address claims it. -/
theorem Platform.claimant_eq_kind {p : Platform} {a : Word} {before after : List Component} {x : Component}
    (h : p.components = before ++ x :: after) (hb : ∀ y ∈ before, ¬y.covers a = true) (hx : x.covers a = true) :
    p.claimant a = some x.kind := by
  have hfind : p.components.find? (fun c => c.covers a) = some x :=
    List.find?_eq_some_iff_append.mpr ⟨hx, before, after, h, fun y hy => by simp [hb y hy]⟩
  rw [Platform.claimant, hfind, Option.map_some]

theorem Platform.ramAt_iff {p : Platform} {a : Word} :
    p.ramAt a = true ↔ ∃ x ∈ p.components, x.kind = .ram ∧ x.covers a = true := by
  simp [Platform.ramAt, and_comm]

variable {s t : State} {a : Word}

/-! ### What answers a read (R61, R64) -/

theorem State.readsBack_of_coreClaims (hc : coreClaims a = true) (hp : s.platform.coreClaimsFirst = true) :
    s.readsBack a = true := by
  simp [State.readsBack, hc, hp]

theorem State.readsBack_of_claimant_ram (hc : coreClaims a = false) (hr : s.platform.claimant a = some .ram) :
    s.readsBack a = true := by
  simp [State.readsBack, hc, hr]

theorem State.answer_of_claimant_device (hc : coreClaims a = false) (hd : s.platform.claimant a = some .device) :
    s.answer a = s.oracle a := by
  simp [State.answer, hc, hd]

theorem State.answer_of_claimant_none (hc : coreClaims a = false) (hn : s.platform.claimant a = none) :
    s.answer a = 0xFF := by
  simp [State.answer, hc, hn, Config.unclaimedByte]

/-- Where another component is asked before the CORE at the CORE's addresses (D15). -/
theorem State.answer_of_not_coreClaimsFirst (hc : coreClaims a = true) (hp : s.platform.coreClaimsFirst = false) :
    s.answer a = s.oracle a := by
  simp [State.answer, hc, hp]

/-- No operation changes who answers: what read back before still does after. -/
theorem State.answer_eq_stored (h : s.readsBack a = true) (hp : t.platform = s.platform) : t.answer a = t.stored a :=
  t.answer_of_readsBack ((State.readsBack_congr hp a).trans h)

/-! ### What is held in HRAM, and writes there (R31, R65) -/

theorem State.stored_hramAddr (s : State) (k : Fin 127) : s.stored (0xFF80 + BitVec.ofNat 16 k.val) = s.hram k := by
  obtain ⟨hie, hif⟩ := inHram_ne (inHram_hramAddr k)
  rw [State.stored, if_neg hie, if_neg hif, toNat_hramAddr, State.hram]

theorem State.store_of_inHram (h : inHram a = true) (v : Byte) :
    s.store a v = { s with mem := s.mem.write a.toNat v } := by
  obtain ⟨hie, hif⟩ := inHram_ne h
  simp [State.store, hie, hif, h]

theorem State.memWrite_eq (s : State) (a : Word) (v : Byte) :
    s.memWrite a v = { s.store a v with bus := .write a v :: s.bus } := by
  rw [State.memWrite, State.store_bus]

end Sys2Proof.Machine
end

section
namespace Sys2Proof.Machine

/-- Settles O60: the environment's writes are no transactions of the CORE and leave the end of the queue; the tick makes at
most five and leaves the queue (`Follows.tick`). -/
theorem aStepMakesAtMostFiveBusTransactions : Obligations.AStepMakesAtMostFiveBusTransactions := by
  intro s t h
  obtain ⟨u, hu, rfl⟩ := step_eq_next h
  have hfol := Follows.tick hu
  constructor
  · simpa using hfol.bus
  · rw [hfol.env]
    exact applyDue_env s s.cycle s.env

/-- Settles O16: reads by what reads back, writes by the branch of `store` at each of the three address ranges. -/
theorem coreElementsOnTheBus : Obligations.CoreElementsOnTheBus := by
  intro s v k a
  have hk : inHram a = true := inHram_hramAddr k
  have hstored : s.stored 0xFF0F = s.iflag ∧ s.stored 0xFFFF = s.ie ∧ s.stored a = s.hram k :=
    ⟨rfl, rfl, s.stored_hramAddr k⟩
  refine ⟨fun hp => ?_, hstored, ⟨rfl, rfl⟩, fun hm => ⟨?_, ?_, fun b => s.stored_store_other v⟩, fun b => s.memWrite_eq b v⟩
  · have hread {b : Word} (hc : coreClaims b = true) : (s.memRead b).1 = s.stored b :=
      s.answer_of_readsBack (State.readsBack_of_coreClaims hc hp)
    rwa [hread (by decide), hread (by decide), hread (coreClaims_of_inHram hk)]
  · rw [State.store_of_inHram hk]
  · rw [← State.stored_hramAddr]
    exact s.stored_store_same hm.1 v (by simp [State.holds, coreClaims_of_inHram hk])

/-- Settles O17: outside the CORE's addresses by who the claimant is, none or a component of either kind; at them by who is
asked first. -/
theorem busAnswersAsTheContractSays : Obligations.BusAnswersAsTheContractSays := by
  intro s a v
  refine ⟨fun hc => ⟨fun hnone => ?_, fun before x after hsplit hbefore hlo hhi => ?_, ?_⟩,
    State.answer_of_not_coreClaimsFirst, fun hh => ?_, rfl⟩
  · exact State.answer_of_claimant_none hc
      (Platform.claimant_eq_none fun x hx => mt Component.covers_iff.mp (hnone x hx))
  · have hclaim : s.platform.claimant a = some x.kind :=
      Platform.claimant_eq_kind hsplit (fun y hy => mt Component.covers_iff.mp (hbefore y hy))
        (Component.covers_iff.mpr ⟨hlo, hhi⟩)
    cases hk : x.kind with
    | ram => exact s.answer_of_readsBack (State.readsBack_of_claimant_ram hc (hk ▸ hclaim))
    | device => exact State.answer_of_claimant_device hc (hk ▸ hclaim)
  · simp only [State.holds, hc, Bool.false_or, Platform.ramAt_iff, Component.covers_iff]
  · rw [State.memWrite_eq, s.store_unheld v hh]

/-- Settles O18: a read that reads back answers what is held, and a write changes what is held at its own address alone. -/
theorem readsSeeTheMostRecentWrite : Obligations.ReadsSeeTheMostRecentWrite := by
  intro s a b v hm hr
  have hread (c : Word) (w : Byte) : (s.memWrite c w).answer a = (s.store c w).stored a :=
    State.answer_eq_stored hr (s.memWrite_platform c w)
  have hsame : (s.memWrite a v).answer a = v :=
    (hread a v).trans (s.stored_store_same hm.1 v (s.holds_of_readsBack hr))
  refine ⟨hsame, fun hb => ?_, by simp [hsame]⟩
  calc (s.memWrite b v).answer a = (s.store b v).stored a := hread b v
    _ = s.stored a := s.stored_store_other v hb.symm
    _ = s.answer a := (s.answer_of_readsBack hr).symm

/-- Settles O19: both accesses are defined as two 8-bit ones; 0xFFFF + 1 is 0x0000. -/
theorem sixteenBitAccessesAreTwoBytesLowFirst : Obligations.SixteenBitAccessesAreTwoBytesLowFirst := by
  intro s a v
  rw [← hiByte_eq, ← loByte_eq]
  exact ⟨rfl, rfl, rfl, s.memWrite16_bus 0xFFFF v⟩

/-- Settles O20: the two bytes are held after the push and read back, before and after the pop's first read; a pop joins
them and changes nothing held. -/
theorem popAfterPushRestores : Obligations.PopAfterPushRestores := by
  intro s v hm hlo hhi t
  rw [← hiByte_eq, ← loByte_eq]
  have hsp : t.sp = s.sp - 2 := s.push16_sp v
  have hsp1 : t.sp + 1 = s.sp - 1 := by rw [hsp]; bv_omega
  have hplat : t.platform = s.platform := s.push16_platform v
  have hne : s.sp - 2 ≠ s.sp - 1 := by bv_omega
  have heldLo : t.stored (s.sp - 2) = loByte v := by
    rw [s.stored_push16 hm, if_neg hne, if_pos rfl, if_pos (s.holds_of_readsBack hlo)]
  have heldHi : t.stored (s.sp - 1) = hiByte v := by
    rw [s.stored_push16 hm, if_pos rfl, if_pos (s.holds_of_readsBack hhi)]
  have readLo : t.answer t.sp = loByte v := by
    rw [hsp, State.answer_eq_stored hlo hplat, heldLo]
  have readHi {u : State} (hu : u.platform = t.platform) (hs : u.stored (s.sp - 1) = t.stored (s.sp - 1)) :
      u.answer (t.sp + 1) = hiByte v := by
    rw [hsp1, State.answer_eq_stored hhi (hu.trans hplat), hs, heldHi]
  refine ⟨hsp, readLo, readHi rfl rfl, ?_, ?_, fun a ha2 ha1 => ?_⟩
  · rw [State.pop16_value, readLo, readHi (t.memRead_platform t.sp) (t.stored_memRead t.sp _), joinBytes_hiByte_loByte]
  · rw [State.pop16_sp, hsp]; bv_omega
  · rw [State.stored_pop16, s.stored_push16 hm, if_neg ha1, if_neg ha2]

end Sys2Proof.Machine
end

section
/-! SUPPORT. The first byte of an instruction determines it up to its immediate, and the format of its encoding; then the
statements about the encoding (30_encoding.md). -/

namespace Sys2Proof

/-! ### The immediate of an instruction (R101-R103) -/

/-- The instruction with the immediate byte `n` or the immediate word `nn` in place of its own, where it has one. -/
def Instr.withImmediate (i : Instr) (n : Byte) (nn : Word) : Instr :=
  match i with
  | .ldR8N8 rd _ => .ldR8N8 rd n
  | .ldHLN8 _ => .ldHLN8 n
  | .ldAN16 _ => .ldAN16 nn
  | .ldN16A _ => .ldN16A nn
  | .ldhAN8 _ => .ldhAN8 n
  | .ldhN8A _ => .ldhN8A n
  | .ldR16N16 p _ => .ldR16N16 p nn
  | .ldN16SP _ => .ldN16SP nn
  | .addN8 _ => .addN8 n
  | .adcN8 _ => .adcN8 n
  | .subN8 _ => .subN8 n
  | .sbcN8 _ => .sbcN8 n
  | .cpN8 _ => .cpN8 n
  | .addSPE8 _ => .addSPE8 n
  | .ldHLSPE8 _ => .ldHLSPE8 n
  | .andN8 _ => .andN8 n
  | .orN8 _ => .orN8 n
  | .xorN8 _ => .xorN8 n
  | .jpN16 _ => .jpN16 nn
  | .jpCcN16 cc _ => .jpCcN16 cc nn
  | .jrE8 _ => .jrE8 n
  | .jrCcE8 cc _ => .jrCcE8 cc n
  | .callN16 _ => .callN16 nn
  | .callCcN16 cc _ => .callCcN16 cc nn
  | i => i

@[simp] theorem Instr.withImmediate_descriptor (i : Instr) (n : Byte) (nn : Word) :
    (i.withImmediate n nn).descriptor = i.descriptor := by
  cases i <;> rfl

@[simp] theorem Instr.withImmediate_length (i : Instr) (n : Byte) (nn : Word) : (i.withImmediate n nn).length = i.length := by
  rw [Instr.length, withImmediate_descriptor, Instr.length]

@[simp] theorem Instr.withImmediate_wellFormed (i : Instr) (n : Byte) (nn : Word) :
    WellFormed (i.withImmediate n nn) = WellFormed i := by
  cases i <;> rfl

/-- Low byte first, the bytes of an immediate word are the two it was read from (R103, R112). -/
theorem le16_imm16 (lo hi : Byte) : le16 (imm16 lo hi) = [lo, hi] := by
  have hlo : (imm16 lo hi).extractLsb' 0 8 = lo := BitVec.extractLsb'_append_eq_right
  have hhi : (imm16 lo hi).extractLsb' 8 8 = hi := BitVec.extractLsb'_append_eq_left
  rw [le16, hlo, hhi]

@[simp] theorem Instr.withImmediate_eq_stop (i : Instr) (n : Byte) (nn : Word) :
    i.withImmediate n nn = .stop ↔ i = .stop := by
  cases i <;> simp [withImmediate]

/-- The encoding of a plain instruction is its first byte and as many of `b1`, `b2` as it has immediate bytes; STOP has its
own second byte (R384). -/
theorem encode_withImmediate {i : Instr} (hcb : (encode i).head? ≠ some 0xCB) (hstop : i ≠ .stop) (b1 b2 : Byte) :
    encode (i.withImmediate b1 (imm16 b1 b2)) = (encode i).take 1 ++ [b1, b2].take ((encode i).length - 1) := by
  cases i
  case stop => exact absurd rfl hstop
  case ldAN16 | ldN16A | ldR16N16 | ldN16SP | jpN16 | jpCcN16 | callN16 | callCcN16 =>
    exact congrArg (_ :: ·) (le16_imm16 b1 b2)
  case rlcR8 | rlcHL | rrcR8 | rrcHL | rlR8 | rlHL | rrR8 | rrHL | slaR8 | slaHL | sraR8 | sraHL | swapR8 | swapHL | srlR8 |
      srlHL | bitR8 | bitHL | resR8 | resHL | setR8 | setHL | prefixCB =>
    exact absurd rfl hcb
  all_goals rfl

/-! ### What the first byte determines (R114) -/

theorem decodeBlock0_withImmediate (b n n' : Byte) (nn nn' : Word) :
    decodeBlock0 b n nn = (decodeBlock0 b n' nn').withImmediate n nn := by
  unfold decodeBlock0
  repeat' split
  all_goals rfl

theorem decodeBlock1_withImmediate (b n : Byte) (nn : Word) : (decodeBlock1 b).withImmediate n nn = decodeBlock1 b := by
  unfold decodeBlock1
  split <;> rfl

theorem decodeBlock2_withImmediate (b n : Byte) (nn : Word) : (decodeBlock2 b).withImmediate n nn = decodeBlock2 b := by
  unfold decodeBlock2
  repeat' split
  all_goals rfl

/-- In the last block all bytes but the prefix. -/
theorem decodeBlock3_withImmediate {b : Byte} (hb : ¬(opZ b = 0b011 ∧ opY b = 0b001)) (n n' : Byte) (nn nn' : Word) :
    decodeBlock3 b n nn = (decodeBlock3 b n' nn').withImmediate n nn := by
  unfold decodeBlock3
  split
  case h_4 hz =>
    split
    case h_2 hy => exact absurd ⟨hz, hy⟩ hb
    all_goals rfl
  all_goals
    repeat' split
    all_goals rfl

/-- The first byte alone determines the instruction up to its immediate, but for the prefix (R114). -/
theorem decodeBytes_withImmediate {b0 : Byte} (hcb : b0 ≠ 0xCB) (b1 b2 : Byte) :
    decodeBytes b0 b1 b2 = (decodeBytes b0 0 0).withImmediate b1 (imm16 b1 b2) := by
  have hb (h0 : opX b0 ≠ 0) (h1 : opX b0 ≠ 1) (h2 : opX b0 ≠ 2) : ¬(opZ b0 = 0b011 ∧ opY b0 = 0b001) := by
    revert b0; decide
  unfold decodeBytes
  split
  · exact decodeBlock0_withImmediate b0 b1 0 _ _
  · exact (decodeBlock1_withImmediate b0 _ _).symm
  · exact (decodeBlock2_withImmediate b0 _ _).symm
  next h0 h1 h2 => exact decodeBlock3_withImmediate (hb h0 h1 h2) b1 0 _ _

/-- The prefix diverts to the prefixed table (R114). -/
theorem decodeBytes_cb (b1 b2 : Byte) : decodeBytes 0xCB b1 b2 = decodePrefixed b1 := rfl

/-- Three bytes always hold an instruction (R100, R117). -/
theorem decode_three_bytes (b0 b1 b2 : Byte) :
    decode [b0, b1, b2] = .ok (decodeBytes b0 b1 b2, [b1, b2].drop (bytesAfter b0)) := by
  have hlen : bytesAfter b0 ≤ 2 := by revert b0; decide
  simp [decode, Nat.not_lt.mpr hlen]

/-! ### The tables slot by slot (R114-R117) -/

theorem encode_decodePrefixed (b : Byte) : encode (decodePrefixed b) = [0xCB, b] := by
  revert b; decide

theorem decodePrefixed_wellFormed (b : Byte) : WellFormed (decodePrefixed b) = true := by
  revert b; decide

/-- Every prefixed slot has a descriptor, of the prefixed kind and of length 2 (R116). -/
theorem decodePrefixed_descriptor (b : Byte) :
    ∃ d, (decodePrefixed b).descriptor = some d ∧ d.kind = .prefixed ∧ d.length = 2 := by
  obtain ⟨d, hd, hkind⟩ := Option.map_eq_some_iff.mp (rowDescriptor_decodePrefixed_kind b)
  rw [← Instr.descriptor_of_ne_prefixCB (decodePrefixed_ne_prefixCB b)] at hd
  have hlen := (Laws.EncodedLength.prefixCB b).1
  rw [Instr.descriptor_prefixCB, hd] at hlen
  exact ⟨d, hd, hkind, hlen.symm⟩

theorem decodePrefixed_length (b : Byte) : (decodePrefixed b).length = 2 := by
  obtain ⟨d, hd, -, hlen⟩ := decodePrefixed_descriptor b
  rw [Instr.length, hd]
  exact hlen

/-- Over all first bytes but the prefix. -/
theorem decodeBytes_zero_descriptor {b0 : Byte} (hcb : b0 ≠ 0xCB) :
    (decodeBytes b0 0 0).descriptor = none ↔ b0 ∈ unmappedSlots := by
  revert b0; decide

theorem decodeBytes_zero_wellFormed (b0 : Byte) : WellFormed (decodeBytes b0 0 0) = true := by
  revert b0; decide

theorem decodeBytes_zero_length_le (b0 : Byte) : (decodeBytes b0 0 0).length ≤ 3 := by
  revert b0; decide

/-- The length is what the first byte tells (R117). -/
theorem decodeBytes_length (b0 b1 b2 : Byte) : (decodeBytes b0 b1 b2).length = (decodeBytes b0 0 0).length := by
  by_cases hcb : b0 = 0xCB
  · subst hcb
    rw [decodeBytes_cb, decodeBytes_cb, decodePrefixed_length, decodePrefixed_length]
  · rw [decodeBytes_withImmediate hcb, Instr.withImmediate_length]

theorem decodeBytes_wellFormed (b0 b1 b2 : Byte) : WellFormed (decodeBytes b0 b1 b2) = true := by
  by_cases hcb : b0 = 0xCB
  · rw [hcb, decodeBytes_cb, decodePrefixed_wellFormed]
  · rw [decodeBytes_withImmediate hcb, Instr.withImmediate_wellFormed, decodeBytes_zero_wellFormed]

theorem decodeBytes_zero_eq_stop {b0 : Byte} : decodeBytes b0 0 0 = .stop ↔ b0 = 0x10 := by
  revert b0; decide

theorem decodeBytes_eq_stop {b0 b1 b2 : Byte} : decodeBytes b0 b1 b2 = .stop ↔ b0 = 0x10 := by
  by_cases hcb : b0 = 0xCB
  · subst hcb
    exact iff_of_false (decodePrefixed_ne nofun) (by decide)
  · rw [decodeBytes_withImmediate hcb, Instr.withImmediate_eq_stop, decodeBytes_zero_eq_stop]

theorem encode_decodeBytes_zero (b0 : Byte) :
    (encode (decodeBytes b0 0 0)).head? = some b0 ∧ (encode (decodeBytes b0 0 0)).length - 1 = bytesAfter b0 := by
  revert b0; decide

/-- But for STOP, the encoding of what three bytes hold is those of them that are read (R114, R117, R119). -/
theorem encode_decodeBytes {b0 : Byte} (hstop : b0 ≠ 0x10) (b1 b2 : Byte) :
    encode (decodeBytes b0 b1 b2) = b0 :: [b1, b2].take (bytesAfter b0) := by
  by_cases hcb : b0 = 0xCB
  · subst hcb
    exact encode_decodePrefixed b1
  · obtain ⟨hhead, hlen⟩ := encode_decodeBytes_zero b0
    have hne : (encode (decodeBytes b0 0 0)).head? ≠ some 0xCB :=
      fun h => hcb (Option.some.inj (hhead.symm.trans h))
    rw [decodeBytes_withImmediate hcb, encode_withImmediate hne (mt decodeBytes_zero_eq_stop.mp hstop), hlen, List.take_one,
      hhead]
    rfl

end Sys2Proof

namespace Sys2Proof.Machine

/-! ### The bytes of an instruction, by its format (R101-R104) -/

namespace Encodes

/-- Format P1. -/
theorem one {b0 : Byte} {i : Instr} (hlen : bytesAfter b0 = 0) (h : ∀ b1 b2, decodeBytes b0 b1 b2 = i) : Encodes [b0] i :=
  fun rest => (decode_one hlen rest).trans (by rw [h])

/-- Format P2. -/
theorem two {b0 b1 : Byte} {i : Instr} (hlen : bytesAfter b0 = 1) (h : ∀ b2, decodeBytes b0 b1 b2 = i) : Encodes [b0, b1] i :=
  fun rest => (decode_two hlen b1 rest).trans (by rw [h])

/-- Format P3. -/
theorem three {b0 : Byte} {f : Word → Instr} (hlen : bytesAfter b0 = 2)
    (h : ∀ b1 b2, decodeBytes b0 b1 b2 = f (imm16 b1 b2)) (n : Word) : Encodes (b0 :: le16 n) (f n) :=
  fun rest => (decode_three hlen _ _ rest).trans (by rw [h, imm16_bytes])

/-- Format CB. -/
theorem prefixed {b : Byte} {i : Instr} (h : decodePrefixed b = i) : Encodes [0xCB, b] i :=
  fun rest => h ▸ decode_cb b rest

/-- A slot of R115 stands for itself. -/
theorem unmapped {b : Byte} (h : b ∈ unmappedSlots) : Encodes [b] (.unmapped b) := by
  have hslot : bytesAfter b = 0 ∧ decodeBytes b 0 0 = .unmapped b ∧ b ≠ 0xCB := by
    revert b; decide
  obtain ⟨hlen, hzero, hcb⟩ := hslot
  exact one hlen fun b1 b2 => by rw [decodeBytes_withImmediate hcb, hzero]; rfl

end Encodes

/-- The encoding of a well-formed instruction is that instruction's bytes: by its format, for each value of the register,
pair, condition or restart index in its opcode byte. -/
theorem encodes_encode {i : Instr} (hwf : WellFormed i = true) : Encodes (encode i) i := by
  cases i
  case prefixCB => cases hwf
  case unmapped b => exact .unmapped (List.contains_iff_mem.mp hwf)
  -- format P1
  case ldR8R8 rd r => cases rd <;> cases r <;> exact .one rfl fun _ _ => rfl
  case ldR8HL r | ldHLR8 r | addR8 r | adcR8 r | subR8 r | sbcR8 r | cpR8 r | incR8 r | decR8 r | andR8 r | orR8 r | xorR8 r =>
    cases r <;> exact .one rfl fun _ _ => rfl
  case pushR16 p | popR16 p | incR16 p | decR16 p | addHLR16 p => cases p <;> exact .one rfl fun _ _ => rfl
  case retCc cc => cases cc <;> exact .one rfl fun _ _ => rfl
  case rstU3 u => obtain rfl | rfl | rfl | rfl | rfl | rfl | rfl | rfl := u3_cases u <;> exact .one rfl fun _ _ => rfl
  -- format P2
  case ldR8N8 rd _ => cases rd <;> exact .two rfl fun _ => rfl
  case jrCcE8 cc _ => cases cc <;> exact .two rfl fun _ => rfl
  case ldHLN8 | ldhAN8 | ldhN8A | addN8 | adcN8 | subN8 | sbcN8 | cpN8 | addSPE8 | ldHLSPE8 | andN8 | orN8 | xorN8 | jrE8 |
      stop =>
    exact .two rfl fun _ => rfl
  -- format P3
  case ldR16N16 p n => cases p <;> exact .three rfl (fun _ _ => rfl) n
  case jpCcN16 cc n | callCcN16 cc n => cases cc <;> exact .three rfl (fun _ _ => rfl) n
  case ldAN16 n | ldN16A n | ldN16SP n | jpN16 n | callN16 n => exact .three rfl (fun _ _ => rfl) n
  -- format CB
  case rlcR8 r | rrcR8 r | rlR8 r | rrR8 r | slaR8 r | sraR8 r | swapR8 r | srlR8 r => cases r <;> exact .prefixed rfl
  case rlcHL | rrcHL | rlHL | rrHL | slaHL | sraHL | swapHL | srlHL => exact .prefixed rfl
  case bitR8 u r => exact .prefixed (decodePrefixed_bit u r).1
  case resR8 u r => exact .prefixed (decodePrefixed_bit u r).2.1
  case setR8 u r => exact .prefixed (decodePrefixed_bit u r).2.2
  case bitHL u => exact .prefixed (decodePrefixed_bitHL u).1
  case resHL u => exact .prefixed (decodePrefixed_bitHL u).2.1
  case setHL u => exact .prefixed (decodePrefixed_bitHL u).2.2
  -- format P1, no operand
  all_goals exact .one rfl fun _ _ => rfl

/-- A row of the prefixed kind goes on to the next instruction, and keeps SP and IME (R409, R410). -/
theorem exec_prefixed_frame {i : Instr} (hi : (rowDescriptor i).map Descriptor.kind = some .prefixed) {s t : State}
    (h : exec i s = .next t) : t.pc = s.nextPC i ∧ t.sp = s.sp ∧ t.ime = s.ime := by
  cases i
  case rlcR8 | rlcHL | rrcR8 | rrcHL | rlR8 | rlHL | rrR8 | rrHL | slaR8 | slaHL | sraR8 | sraHL | swapR8 | swapHL | srlR8 |
      srlHL | bitR8 | bitHL | resR8 | resHL | setR8 | setHL =>
    cases h
    simp
  all_goals cases hi

/-! ### The statements -/

/-- Settles O5, by the instruction's format. -/
theorem decodeOfEncodeIsTheInstruction : Obligations.DecodeOfEncodeIsTheInstruction :=
  fun _ rest hwf => encodes_encode hwf rest

/-- Settles O6: what is read of the three bytes is encoded, and the others are left. -/
theorem encodeOfDecodeIsTheBytes : Obligations.EncodeOfDecodeIsTheBytes := by
  intro b0 b1 b2 i rest h
  rw [decode_three_bytes] at h
  cases h
  split
  next hstop =>
    have hb : b0 = 0x10 := decodeBytes_eq_stop.mp hstop
    subst hb
    exact ⟨rfl, rfl⟩
  next hstop =>
    rw [encode_decodeBytes (mt decodeBytes_eq_stop.mpr hstop), List.cons_append, List.take_append_drop]

/-- Settles O7: the first byte determines the length, and over the first bytes it is at most 3. -/
theorem decodingIsTotalAndTheFirstByteTellsTheLength : Obligations.DecodingIsTotalAndTheFirstByteTellsTheLength := by
  intro b0 b1 b2
  refine ⟨⟨_, _, decode_three_bytes b0 b1 b2, decodeBytes_wellFormed b0 b1 b2, ?_⟩, fun c1 c2 => ?_⟩
  · rw [decodeBytes_length]
    exact decodeBytes_zero_length_le b0
  · rw [decodeBytes_length, decodeBytes_length b0 c1 c2]

/-- Settles O8: the first byte determines whether there is a descriptor; after the prefix there always is one. -/
theorem theElevenUnmappedSlots : Obligations.TheElevenUnmappedSlots := by
  refine ⟨fun b0 b1 b2 => ?_, decodePrefixed_descriptor⟩
  by_cases hcb : b0 = 0xCB
  · subst hcb
    obtain ⟨d, hd, -⟩ := decodePrefixed_descriptor b1
    rw [decodeBytes_cb, hd]
    exact iff_of_false nofun (by decide)
  · rw [decodeBytes_withImmediate hcb, Instr.withImmediate_descriptor]
    exact decodeBytes_zero_descriptor hcb

/-- Settles O47: the prefix row runs the row it selects, which is of the prefixed kind and of length 2. -/
theorem prefixSelectsThePrefixedRow : Obligations.PrefixSelectsThePrefixedRow := by
  intro s b
  obtain ⟨t, ht⟩ := exec_next (decodePrefixed b) s
  obtain ⟨hpc, hsp, hime⟩ := exec_prefixed_frame (rowDescriptor_decodePrefixed_kind b) ht
  rw [State.nextPC, decodePrefixed_length] at hpc
  exact ⟨.prefixed rfl, t, (execPrefixCB_eq b s).trans ht, ht, hpc, hsp, hime⟩

/-- Settles O9: each word, run through the decoder. -/
theorem sampleWordsDecode : Obligations.SampleWordsDecode := by
  unfold Obligations.SampleWordsDecode
  and_intros <;> rfl

end Sys2Proof.Machine
end

section
/-! SUPPORT. The nine bits that a rotate through the carry turns, and packed decimal bytes with the carries and borrows of
their digits; then the statements about the ALU (40_alu.md). -/

namespace Sys2Proof.Machine

/-! ### Subtraction undoes addition -/

theorem sub8_add8 (a b : Byte) (c : Bool) : (sub8 (add8 a b c).v b c).v = a := by
  rw [sub8_v, add8_v]
  ring

theorem add8_sub8 (a b : Byte) (c : Bool) : (add8 (sub8 a b c).v b c).v = a := by
  rw [add8_v, sub8_v]
  ring

/-! ### Rotation through the carry (R156) -/

/-- The nine bits that `rotateCarry` turns: those of the byte, and the carry as bit 8. -/
def carryRing (v : Byte) (c : Bool) (i : Fin 9) : Bool := if i = 8 then c else v.getLsbD i

theorem carryRing_inj {v w : Byte} {c d : Bool} (h : carryRing v c = carryRing w d) : v = w ∧ c = d := by
  constructor
  · ext i hi
    have hne : (⟨i, by omega⟩ : Fin 9) ≠ 8 := Fin.ne_of_val_ne (Nat.ne_of_lt hi)
    simpa [carryRing, hne, hi] using congrFun h ⟨i, by omega⟩
  · simpa [carryRing] using congrFun h 8

/-- How far up the ring, modulo 9, the bit stands that moves to a given place. -/
def Dir.source (dir : Dir) : Fin 9 :=
  match dir with
  | .left => 8
  | .right => 1

theorem carryRing_rotateCarry (dir : Dir) (v : Byte) (c : Bool) (i : Fin 9) :
    carryRing (rotateCarry dir v c).v (rotateCarry dir v c).flags.c i = carryRing v c (i + dir.source) := by
  cases dir with
  | left =>
    rw [rotateCarry_left_eq]
    cases c <;> fin_cases i <;> simp [carryRing, shiftRecord, Dir.source]
  | right =>
    rw [rotateCarry_right_eq]
    cases c <;> fin_cases i <;> simp [carryRing, shiftRecord, Dir.source]

theorem carryRing_rotatedThroughCarry (dir : Dir) (k : Nat) (v : Byte) (c : Bool) (i : Fin 9) :
    carryRing (rotatedThroughCarry dir k v c).1 (rotatedThroughCarry dir k v c).2 i =
      carryRing v c (i + k • dir.source) := by
  induction k generalizing v c with
  | zero => rw [rotatedThroughCarry, zero_nsmul, add_zero]
  | succ k ih => rw [rotatedThroughCarry, ih, carryRing_rotateCarry, succ_nsmul, add_assoc]

/-! ### Carries and borrows in numbers (R144, R147) -/

theorem bit_le_one (c : Bool) : bit c ≤ 1 := by cases c <;> decide

theorem bit_decide (p : Prop) [Decidable p] : bit (decide p) = if p then 1 else 0 := by
  simp only [bit, decide_eq_true_eq]

theorem bitByte_eq (c : Bool) : bitByte c = BitVec.ofNat 8 (bit c) := by cases c <;> rfl

theorem add8_carries (l r : Byte) (c : Bool) :
    (add8 l r c).flags.h = decide (l.toNat % 16 + r.toNat % 16 + bit c > 15) ∧
      (add8 l r c).flags.c = decide (l.toNat + r.toNat + bit c > 255) := by
  rw [add8_flags]
  exact ⟨rfl, rfl⟩

theorem sub8_borrows (l r : Byte) (b : Bool) :
    (sub8 l r b).flags.h = decide (l.toNat % 16 < r.toNat % 16 + bit b) ∧
      (sub8 l r b).flags.c = decide (l.toNat < r.toNat + bit b) := by
  rw [sub8_flags]
  exact ⟨rfl, rfl⟩

/-! ### Packed decimal bytes (R148) -/

/-- The byte with the last two decimal digits of `n` as its nibbles. -/
def bcd (n : Nat) : Byte := BitVec.ofNat 8 (n / 10 % 10 * 16 + n % 10)

/-- Modulo 256 the decimal form is the number, 6 more for each ten and 96 more for each hundred. -/
theorem bcd_eq (n : Nat) : bcd n = BitVec.ofNat 8 (n + 6 * (n / 10) + 96 * (n / 100)) := by
  have hdiv : n / 10 / 10 = n / 100 := Nat.div_div_eq_div_mul n 10 10
  have h : n + 6 * (n / 10) + 96 * (n / 100) = n / 10 % 10 * 16 + n % 10 + 256 * (n / 100) := by omega
  rw [bcd, h]
  apply BitVec.eq_of_toNat_eq
  simp

theorem toNat_bcd {n : Nat} (hn : n < 100) : (bcd n).toNat = n + 6 * (n / 10) := by
  rw [bcd_eq, BitVec.toNat_ofNat]
  omega

theorem bcd_mod_hundred (n : Nat) : bcd (n % 100) = bcd n := by
  rw [bcd, bcd, show n % 100 / 10 % 10 = n / 10 % 10 by omega, show n % 100 % 10 = n % 10 by omega]

/-- The byte `bcdAdjust` adds or takes away, for a carry or borrow of the low digit and of the high digit. -/
def decimalFix (lo hi : Bool) : Byte := (if hi then 0x60 else 0x00) + (if lo then 0x06 else 0x00)

theorem decimalFix_eq (lo hi : Bool) : decimalFix lo hi = BitVec.ofNat 8 (6 * bit lo + 96 * bit hi) := by
  revert lo hi; decide

theorem bcdAdjust_of_carries {v : Byte} {n h c lo hi : Bool} (hlo : (h || (!n && decide (lowNibble v > 9))) = lo)
    (hhi : (c || (!n && decide (v.toNat > 0x99))) = hi) :
    (bcdAdjust v n h c).v = (if n then v - decimalFix lo hi else v + decimalFix lo hi) ∧
      (bcdAdjust v n h c).flags.c = hi := by
  subst hlo hhi
  exact ⟨rfl, rfl⟩

/-- The fixed sum of two decimal bytes is the decimal sum: a carry of the low digit is one ten more than the two have, a
carry of the high digit one hundred more. -/
theorem bcd_add {x y : Nat} (hx : x < 100) (hy : y < 100) (c : Bool) :
    bcd x + bcd y + bitByte c + decimalFix (10 ≤ x % 10 + y % 10 + bit c) (100 ≤ x + y + bit c) =
      bcd (x + y + bit c) := by
  have hc := bit_le_one c
  have hlo : (x + y + bit c) / 10 = x / 10 + y / 10 + bit (10 ≤ x % 10 + y % 10 + bit c) := by
    rw [bit_decide]
    split_ifs <;> omega
  have hhi : (x + y + bit c) / 100 = bit (100 ≤ x + y + bit c) := by
    rw [bit_decide]
    split_ifs <;> omega
  simp only [bcd_eq, bitByte_eq, decimalFix_eq, ← BitVec.ofNat_add, hlo, hhi]
  congr 1
  omega

/-- The difference, from the sum: the decimal difference and the subtrahend add up to the minuend, and their sum carries
where the difference borrows. -/
theorem bcd_sub {x y : Nat} (hx : x < 100) (hy : y < 100) (c : Bool) :
    bcd x - bcd y - bitByte c - decimalFix (x % 10 < y % 10 + bit c) (x < y + bit c) =
      bcd (100 + x - y - bit c) := by
  have hc := bit_le_one c
  have hsum := bcd_add (x := (100 + x - y - bit c) % 100) (by omega) hy c
  have hlo : 10 ≤ (100 + x - y - bit c) % 100 % 10 + y % 10 + bit c ↔ x % 10 < y % 10 + bit c := by omega
  have hhi : 100 ≤ (100 + x - y - bit c) % 100 + y + bit c ↔ x < y + bit c := by omega
  have hmin : ((100 + x - y - bit c) % 100 + y + bit c) % 100 = x := by omega
  rw [← bcd_mod_hundred (_ + bit c), hmin, bcd_mod_hundred] at hsum
  simp only [hlo, hhi] at hsum
  rw [← hsum]
  ring

theorem toNat_add8_bcd {x y : Nat} (hx : x < 100) (hy : y < 100) (c : Bool) :
    (add8 (bcd x) (bcd y) c).v.toNat = (x + 6 * (x / 10) + (y + 6 * (y / 10)) + bit c) % 256 := by
  rw [← toNat_bcd hx, ← toNat_bcd hy, add8]
  cases c <;> rfl

/-- H, or a low nibble above 9, is the carry of the low decimal digit. -/
theorem add8_bcd_low {x y : Nat} (hx : x < 100) (hy : y < 100) (c : Bool) :
    ((add8 (bcd x) (bcd y) c).flags.h || decide (lowNibble (add8 (bcd x) (bcd y) c).v > 9)) =
      decide (10 ≤ x % 10 + y % 10 + bit c) := by
  have hc := bit_le_one c
  rw [(add8_carries ..).1, lowNibble, toNat_add8_bcd hx hy, toNat_bcd hx, toNat_bcd hy, ← Bool.decide_or, decide_eq_decide]
  omega

/-- C, or a sum above 0x99, is the carry of the high decimal digit. -/
theorem add8_bcd_high {x y : Nat} (hx : x < 100) (hy : y < 100) (c : Bool) :
    ((add8 (bcd x) (bcd y) c).flags.c || decide ((add8 (bcd x) (bcd y) c).v.toNat > 0x99)) =
      decide (100 ≤ x + y + bit c) := by
  have hc := bit_le_one c
  have hmod (s : Nat) : s > 255 ∨ s % 256 > 0x99 ↔ s > 0x99 := by omega
  rw [(add8_carries ..).2, toNat_add8_bcd hx hy, toNat_bcd hx, toNat_bcd hy, ← Bool.decide_or, decide_eq_decide, hmod]
  omega

/-- The borrows of the nibbles are those of the decimal digits. -/
theorem sub8_bcd_borrows {x y : Nat} (hx : x < 100) (hy : y < 100) (c : Bool) :
    (sub8 (bcd x) (bcd y) c).flags.h = decide (x % 10 < y % 10 + bit c) ∧
      (sub8 (bcd x) (bcd y) c).flags.c = decide (x < y + bit c) := by
  have hc := bit_le_one c
  obtain ⟨hh, hb⟩ := sub8_borrows (bcd x) (bcd y) c
  rw [hh, hb, toNat_bcd hx, toNat_bcd hy, decide_eq_decide, decide_eq_decide]
  omega

/-! ### The statements -/

/-- Settles O12: F is the flag byte of the four picked flags, and the only register written. -/
theorem flagCombinationWritesEachFlagFromItsSource : Obligations.FlagCombinationWritesEachFlagFromItsSource := by
  intro s src alu
  obtain ⟨hz, hn, hh, hc, -⟩ := s.writeFlags_flags src alu
  refine ⟨hz, hn, hh, hc, ?_, fun r hr => ?_⟩
  · rw [State.reg_writeFlags, if_pos rfl]
    exact flagByte_low ..
  · rw [State.reg_writeFlags, if_neg hr]

/-- Settles O13: the low bits of a word are its remainder, and above 2^k - 1 is at least 2^k. -/
theorem sixteenBitSums : Obligations.SixteenBitSums := by
  intro l r
  simp only [add16L, add16H, BitVec.toNat_setWidth]
  exact ⟨rfl, rfl⟩

/-- Settles O14: the sums cancel; on the ring of nine bits a rotate is a shift of the index modulo 9, so nine of them are
none, and the shifts of left and right cancel. -/
theorem subtractionUndoesAdditionAndNineRotationsRestore :
    Obligations.SubtractionUndoesAdditionAndNineRotationsRestore := by
  refine ⟨fun a b c => ⟨sub8_add8 a b c, add8_sub8 a b c⟩, fun dir v c => ⟨?_, ?_⟩⟩
  · have hnine : 9 • dir.source = 0 := by cases dir <;> rfl
    refine Prod.ext_iff.mpr (carryRing_inj (funext fun i => ?_))
    rw [carryRing_rotatedThroughCarry, hnine, add_zero]
  · have hback : Dir.left.source + Dir.right.source = 0 := rfl
    refine carryRing_inj (funext fun i => ?_)
    rw [carryRing_rotateCarry, carryRing_rotateCarry, add_assoc, hback, add_zero]

/-- Settles O15: the conditions of `bcdAdjust` are the carries, or the borrows, of the two decimal digits. -/
theorem decimalAdjustGivesDecimalArithmetic : Obligations.DecimalAdjustGivesDecimalArithmetic := by
  intro x y hx hy c
  obtain ⟨hsum, hcarry⟩ := bcdAdjust_of_carries (n := false) (add8_bcd_low hx hy c) (add8_bcd_high hx hy c)
  obtain ⟨hlo, hhi⟩ := sub8_bcd_borrows hx hy c
  obtain ⟨hdif, hborrow⟩ := bcdAdjust_of_carries (v := (sub8 (bcd x) (bcd y) c).v) (n := true)
    ((Bool.or_false _).trans hlo) ((Bool.or_false _).trans hhi)
  refine ⟨hsum.trans ?_, hcarry, hdif.trans ?_, hborrow⟩
  · rw [add8_v]
    exact bcd_add hx hy c
  · rw [sub8_v]
    exact bcd_sub hx hy c

end Sys2Proof.Machine
end

section
/-! SUPPORT. How each shared operation extends what has changed so far, told once per operation: an instruction's rule is
the chain of the operations in its meaning. Then the statements about loads, stores, push and pop (41_load_store.md). -/

namespace Sys2Proof.Machine

theorem imm16Bytes_eq (n : Word) : imm16Bytes n = le16 n := by
  rw [imm16Bytes, le16, extractLsb'_low, extractLsb'_high]

theorem State.holds_of_platform {s t : State} (h : t.platform = s.platform) (a : Word) : t.holds a = s.holds a := by
  rw [State.holds, State.holds, h]

namespace Changed

variable {s u : State} {c : Change}

/-- Before its first operation an instruction has changed nothing. -/
theorem refl (s : State) : Changed s s { pc := s.pc, cost := 0 } where
  pc := rfl
  sched := by simp
  regs := nofun
  otherRegs _ _ := rfl
  sp := rfl
  ime := rfl
  bus := rfl
  written := nofun
  unwritten _ _ := rfl
  fault := rfl
  cycle := rfl
  env := rfl
  platform := rfl

/-! ### Registers, pairs, SP -/

theorem setReg (h : Changed s u c) {r : Reg} (hr : r ∉ c.regs.map Prod.fst) (v : Byte) :
    Changed s (u.setReg r v) { c with regs := c.regs ++ [(r, v)] } where
  __ := h
  regs x hx := by
    obtain hx | rfl : x ∈ c.regs ∨ x = (r, v) := by simpa using hx
    · have hne : x.1 ≠ r := fun he => hr (he ▸ List.mem_map_of_mem hx)
      rw [State.reg_setReg, if_neg hne, h.regs x hx]
    · rw [State.reg_setReg, if_pos rfl]
  otherRegs q hq := by
    obtain ⟨hq, hne⟩ : q ∉ c.regs.map Prod.fst ∧ q ≠ r := by simpa [not_or] using hq
    rw [State.reg_setReg, if_neg hne, h.otherRegs q hq]

theorem setPair (h : Changed s u c) {p : Pair} (hhi : p.hi ∉ c.regs.map Prod.fst) (hlo : p.lo ∉ c.regs.map Prod.fst)
    (v : Word) : Changed s (u.setPair p v) { c with regs := c.regs ++ pairValue p v } := by
  have hlo' : p.lo ∉ (c.regs ++ [(p.hi, hiByte v)]).map Prod.fst := by simpa [(pairHi_ne_pairLo p).symm] using hlo
  have h2 := (h.setReg hhi (hiByte v)).setReg hlo' (loByte v &&& p.loMask)
  rw [List.append_assoc] at h2
  rw [pairValue_eq]
  exact h2

theorem withSp (h : Changed s u c) (w : Word) : Changed s { u with sp := w } { c with sp := some w } :=
  { h with sp := rfl }

/-- A 16-bit result where code 11 stands for SP (R27). -/
theorem setPairSP (s : State) (p : Pair) (v : Word) :
    Changed s (s.setPairSP p v) { pc := s.pc, cost := 0, regs := pairSPRegs p v, sp := pairSPValue p v } := by
  cases p
  case af => exact (refl s).withSp v
  all_goals exact (refl s).setPair nofun nofun v

/-! ### The bus and the stack -/

theorem memRead (h : Changed s u c) (a : Word) :
    Changed s (u.memRead a).2 { c with bus := c.bus ++ [.read a (u.answer a)] } where
  __ := h
  bus := by simp [h.bus]
  written b v hb := h.written b v (by simpa using hb)
  unwritten b hb := h.unwritten b fun x hx => hb x (List.mem_append_left _ hx)

/-- A store to an address the instruction has not written yet. -/
theorem memWrite (h : Changed s u c) (hm : u.MemClean) {a : Word} (ha : ∀ x ∈ c.bus, some a ≠ writeAddress x) (v : Byte) :
    Changed s (u.memWrite a v) { c with bus := c.bus ++ [.write a v] } where
  pc := by simp [h.pc]
  sched := by simp [h.sched]
  regs x hx := by simp [h.regs x hx]
  otherRegs q hq := by simp [h.otherRegs q hq]
  sp := by simp [h.sp]
  ime := by simp [h.ime]
  bus := by simp [h.bus]
  written b w hb := by
    obtain hb | ⟨rfl, rfl⟩ : .write b w ∈ c.bus ∨ b = a ∧ w = v := by simpa using hb
    · have hne : b ≠ a := fun he => ha _ hb (he ▸ rfl)
      rw [State.stored_memWrite, State.stored_store_other _ _ hne, h.written b w hb]
    · rw [State.stored_memWrite, State.stored_store u hm.1, if_pos rfl, State.holds_of_platform h.platform, h.unwritten b ha]
  unwritten b hb := by
    have hne : b ≠ a := fun he => hb (.write a v) (by simp) (he ▸ rfl)
    rw [State.stored_memWrite, State.stored_store_other _ _ hne, h.unwritten b fun x hx => hb x (List.mem_append_left _ hx)]
  fault := by simp [h.fault]
  cycle := by simp [h.cycle]
  env := by simp [h.env]
  platform := by simp [h.platform]

/-- A 16-bit store, before any other store of the instruction (R68). -/
theorem memWrite16 (h : Changed s u c) (hm : u.MemClean) (hc : ∀ x ∈ c.bus, writeAddress x = none) (a v : Word) :
    Changed s (u.memWrite16 a v)
      { c with bus := c.bus ++ [.write a (v.setWidth 8), .write (a + 1) ((v >>> 8).setWidth 8)] } := by
  have hfresh (b : Word) : ∀ x ∈ c.bus, some b ≠ writeAddress x := fun x hx => by simp [hc x hx]
  have hnext : ∀ x ∈ c.bus ++ [.write a (loByte v)], some (a + 1) ≠ writeAddress x := by
    have hne : a + 1 ≠ a := by bv_omega
    simpa [or_imp, forall_and, writeAddress, hne] using hfresh (a + 1)
  have h2 := (h.memWrite hm (hfresh a) (loByte v)).memWrite (u.memClean_memWrite hm a _) hnext (hiByte v)
  rw [List.append_assoc] at h2
  rw [← hiByte_eq v, ← loByte_eq v]
  exact h2

theorem push16 (h : Changed s u c) (hm : u.MemClean) (hc : ∀ x ∈ c.bus, writeAddress x = none) (v : Word) :
    Changed s (u.push16 v) { c with sp := some (u.sp - 2), bus := c.bus ++ pushed u v } := by
  have hsp : u.sp - 2 + 1 = u.sp - 1 := by bv_omega
  have h2 := (h.withSp (u.sp - 2)).memWrite16 hm hc (u.sp - 2) v
  rw [hsp] at h2
  exact h2

theorem pop16 (h : Changed s u c) : Changed s u.pop16.2 { c with sp := some (u.sp + 2), bus := c.bus ++ popped u } := by
  have h2 := ((h.memRead u.sp).memRead (u.sp + 1)).withSp (u.sp + 2)
  rw [List.append_assoc] at h2
  exact h2

/-- A load of A as a whole (R205, R206, R209, R211, R213). -/
theorem loadA (s : State) (a : Word) :
    Changed s (s.loadA a) { pc := s.pc, cost := 0, regs := [(.a, s.answer a)], bus := [.read a (s.answer a)] } :=
  ((refl s).memRead a).setReg nofun (s.answer a)

/-- A store of A as a whole (R207, R208, R210, R212, R214). -/
theorem storeA {s : State} (hm : s.MemClean) (a : Word) :
    Changed s (s.storeA a) { pc := s.pc, cost := 0, bus := [.write a (s.reg .a)] } :=
  (refl s).memWrite hm nofun (s.reg .a)

/-! ### The end of the instruction -/

theorem complete (h : Changed s u c) (i : Instr) (target : Word) (taken : Bool) :
    Changed s (u.complete i target taken)
      { c with pc := target, cost := c.cost + (i.cycles + if taken then i.extraCycles else 0) } :=
  { h with
    pc := rfl
    sched := by simp [h.sched, Nat.add_assoc, Function.comp_def] }

theorem retire (h : Changed s u c) (i : Instr) :
    Changed s (u.retire i) { c with pc := c.pc + BitVec.ofNat 16 i.length, cost := c.cost + i.cycles } := by
  rw [← h.pc]
  exact h.complete i (u.nextPC i) false

end Changed

/-- The rule of an instruction, from what its meaning changes: its bytes are those the encoder writes. -/
theorem Rule.of_exec {bs : List Byte} {i : Instr} {s t : State} {c d : Change} (hexec : exec i s = .next t) (h : Changed s t d)
    (hc : d = c := by rfl) (hbs : encode i = bs := by rfl) (hwf : WellFormed i = true := by rfl) : Rule bs i s c := by
  subst hc hbs
  exact ⟨encodes_encode hwf, t, hexec, h⟩

/-! ### The statements -/

/-- Settles O21: the three meanings set one register, the third after one read. -/
theorem loadsIntoARegister : Obligations.LoadsIntoARegister := by
  intro s rd r n
  have h := Changed.refl s
  refine ⟨?_, ?_, ?_⟩
  · exact .of_exec rfl ((h.setReg nofun (s.reg r.toReg)).retire _)
  · exact .of_exec rfl ((h.setReg nofun n).retire _)
  · exact .of_exec rfl (((h.memRead (s.pair .hl)).setReg nofun _).retire _)

/-- Settles O22: both meanings are one write at HL. -/
theorem storesThroughHL : Obligations.StoresThroughHL := by
  intro s r n hm
  have h := Changed.refl s
  constructor
  · exact .of_exec rfl ((h.memWrite hm nofun (s.reg r.toReg)).retire _)
  · exact .of_exec rfl ((h.memWrite hm nofun n).retire _)

/-- Settles O23: the five meanings are one load of A, each from its own address. -/
theorem loadsOfA : Obligations.LoadsOfA := by
  intro s n nn
  rw [imm16Bytes_eq, ← highAddr_eq, ← highAddr_eq]
  refine ⟨?_, ?_, ?_, ?_, ?_⟩
  all_goals exact .of_exec rfl ((Changed.loadA s _).retire _)

/-- Settles O24: the five meanings are one store of A, each to its own address. -/
theorem storesOfA : Obligations.StoresOfA := by
  intro s n nn hm
  rw [imm16Bytes_eq, ← highAddr_eq, ← highAddr_eq]
  refine ⟨?_, ?_, ?_, ?_, ?_⟩
  all_goals exact .of_exec rfl ((Changed.storeA hm _).retire _)

/-- Settles O25: the access at the old HL, and then HL, of which A is no register, set to its new value. -/
theorem loadsAndStoresThatStepHL : Obligations.LoadsAndStoresThatStepHL := by
  intro s
  have load (w : Word) := (Changed.loadA s (s.pair .hl)).setPair (p := .hl) (by simp [Pair.hi]) (by simp [Pair.lo]) w
  have store (hm : s.MemClean) (w : Word) := (Changed.storeA hm (s.pair .hl)).setPair (p := .hl) nofun nofun w
  refine ⟨?_, ?_, fun hm => ⟨?_, ?_⟩⟩
  · exact .of_exec rfl ((load (s.pair .hl + 1)).retire _)
  · exact .of_exec rfl ((load (s.pair .hl - 1)).retire _)
  · exact .of_exec rfl ((store hm (s.pair .hl + 1)).retire _)
  · exact .of_exec rfl ((store hm (s.pair .hl - 1)).retire _)

/-- Settles O26: the pair or SP by its code, SP from HL, and the 16-bit store of SP. -/
theorem sixteenBitLoads : Obligations.SixteenBitLoads := by
  intro s p n
  rw [imm16Bytes_eq]
  have h := Changed.refl s
  refine ⟨?_, ?_, fun hm => ?_⟩
  · exact .of_exec rfl ((Changed.setPairSP s p n).retire _)
  · exact .of_exec rfl ((h.withSp (s.pair .hl)).retire _)
  · exact .of_exec rfl ((h.memWrite16 hm nofun n s.sp).retire _)

/-- Settles O27: a push of the pair; a pop, and then the pair set to the value popped. -/
theorem pushAndPopOfAPair : Obligations.PushAndPopOfAPair := by
  intro s p
  have h := Changed.refl s
  refine ⟨fun hm => ?_, ?_⟩
  · exact .of_exec rfl ((h.push16 hm nofun (s.pair p)).retire _)
  · exact .of_exec rfl ((h.pop16.setPair nofun nofun s.pop16.1).retire _)

end Sys2Proof.Machine
end

section
/-! SUPPORT. How the flag-combination step extends what has changed so far, and the ALU's records in the words of the
statements; then the statements about arithmetic (42_arith.md). -/

namespace Sys2Proof.Machine

/-! ### The flag-combination step (R159) -/

/-- The byte that the flag-combination step writes to F. -/
def State.combinedFlags (s : State) (src : FlagSources) (alu : Flags) : Byte :=
  flagByte (src.z.pick alu.z s.flagZ) (src.n.pick alu.n s.flagN) (src.h.pick alu.h s.flagH) (src.c.pick alu.c s.flagC)

theorem State.writeFlags_eq (s : State) (src : FlagSources) (alu : Flags) :
    s.writeFlags src alu = s.setReg .f (s.combinedFlags src alu) := rfl

theorem State.combinedFlags_of_f {s u : State} (h : u.reg .f = s.reg .f) (src : FlagSources) (alu : Flags) :
    u.combinedFlags src alu = s.combinedFlags src alu := by
  obtain ⟨hz, hn, hh, hc⟩ := State.flags_of_f h
  rw [State.combinedFlags, hz, hn, hh, hc, State.combinedFlags]

namespace Changed

variable {s u : State} {c : Change}

/-- The flags an instruction keeps are those it found, as F is written once. -/
theorem writeFlags (h : Changed s u c) (hf : .f ∉ c.regs.map Prod.fst) (src : FlagSources) (alu : Flags) :
    Changed s (u.writeFlags src alu) { c with regs := c.regs ++ [(.f, s.combinedFlags src alu)] } := by
  rw [State.writeFlags_eq, State.combinedFlags_of_f (h.otherRegs .f hf)]
  exact h.setReg hf _

/-- A result in a register, and then its flags. -/
theorem setRegFlags (h : Changed s u c) {r : Reg} (hr : r ∉ c.regs.map Prod.fst) (hf : .f ∉ c.regs.map Prod.fst)
    (hrf : r ≠ .f) (v : Byte) (src : FlagSources) (alu : Flags) :
    Changed s ((u.setReg r v).writeFlags src alu)
      { c with regs := c.regs ++ [(r, v), (.f, s.combinedFlags src alu)] } := by
  have hf' : .f ∉ (c.regs ++ [(r, v)]).map Prod.fst := by simpa [hrf.symm] using hf
  have h2 := (h.setReg hr v).writeFlags hf' src alu
  rw [List.append_assoc] at h2
  exact h2

/-- An operation on A, a register or an immediate as a whole (R240-R243, R246-R249, R280-R288). -/
theorem setAccumulator (s : State) (alu : Alu8) :
    Changed s (s.setAccumulator alu)
      { pc := s.pc, cost := 0, regs := [(.a, alu.v), (.f, s.combinedFlags .fromAlu alu.flags)] } :=
  (refl s).setRegFlags (r := .a) nofun nofun nofun alu.v .fromAlu alu.flags

/-- An operation on A and the HL-pointed byte as a whole (R244, R245, R250, R251, R280-R288). -/
theorem readHL_setAccumulator (s : State) (alu : Alu8) :
    Changed s (s.readHL.2.setAccumulator alu)
      { pc := s.pc, cost := 0, regs := [(.a, alu.v), (.f, s.combinedFlags .fromAlu alu.flags)]
        bus := [.read (s.pair .hl) (s.answer (s.pair .hl))] } :=
  ((refl s).memRead (s.pair .hl)).setRegFlags (r := .a) nofun nofun nofun alu.v .fromAlu alu.flags

/-- An operation on a register as a whole (R255, R257, R304-R307, R312-R314, R318). -/
theorem updateR8 (s : State) (r : R8) (alu : Alu8) (src : FlagSources) :
    Changed s (s.updateR8 r alu src)
      { pc := s.pc, cost := 0, regs := [(r.toReg, alu.v), (.f, s.combinedFlags src alu.flags)] } :=
  (refl s).setRegFlags nofun nofun (R8.toReg_ne_f r) alu.v src alu.flags

/-- An operation on the HL-pointed byte as a whole: it is read, and written back to the same address (R256, R258,
R308-R311, R315-R317, R319). -/
theorem updateHL {s : State} (hm : s.MemClean) (alu : Alu8) (src : FlagSources) :
    Changed s (s.readHL.2.updateHL alu src)
      { pc := s.pc, cost := 0, regs := [(.f, s.combinedFlags src alu.flags)]
        bus := [.read (s.pair .hl) (s.answer (s.pair .hl)), .write (s.pair .hl) alu.v] } :=
  (((refl s).memRead (s.pair .hl)).memWrite hm (by simp [writeAddress]) alu.v).writeFlags nofun src alu.flags

/-- Nothing depends on the order in which a change names the registers. -/
theorem perm (h : Changed s u c) {regs : List (Reg × Byte)} (hp : regs.Perm c.regs) :
    Changed s u { c with regs := regs } where
  __ := h
  regs x hx := h.regs x (hp.mem_iff.mp hx)
  otherRegs r hr := h.otherRegs r (mt (hp.map Prod.fst).mem_iff.mpr hr)

/-- A 16-bit result in HL, and then its flags, F named first (R261, R263). -/
theorem setHLFlags (s : State) (v : Word) (src : FlagSources) (alu : Flags) :
    Changed s ((s.setPair .hl v).writeFlags src alu)
      { pc := s.pc, cost := 0, regs := (.f, s.combinedFlags src alu) :: pairValue .hl v } :=
  (((refl s).setPair (p := .hl) nofun nofun v).writeFlags (by simp [pairValue]) src alu).perm
    (List.perm_append_comm (l₁ := [_]))

end Changed

/-! ### The ALU's records in the words of the statements (R144, R145, R147) -/

/-- A sum in A, with all its flags. -/
theorem sumInA_eq (s : State) (a x : Byte) (c : Bool) :
    sumInA a x c = [(.a, (add8 a x c).v), (.f, s.combinedFlags .fromAlu (add8 a x c).flags)] := by
  rw [add8_flags, add8_v]
  rfl

/-- All the flags of a difference. -/
theorem differenceFlags_eq (s : State) (a x : Byte) (b : Bool) :
    differenceFlags a x b = s.combinedFlags .fromAlu (sub8 a x b).flags := by
  rw [sub8_flags, sub8_v]
  rfl

/-- A difference in A, with all its flags. -/
theorem differenceInA_eq (s : State) (a x : Byte) (b : Bool) :
    differenceInA a x b = [(.a, (sub8 a x b).v), (.f, s.combinedFlags .fromAlu (sub8 a x b).flags)] := by
  rw [← differenceFlags_eq, sub8_v]
  rfl

theorem add8_one (v : Byte) : (add8 v 1 false).v = v + 1 := (add8_v v 1 false).trans (BitVec.add_zero _)

theorem sub8_one (v : Byte) : (sub8 v 1 false).v = v - 1 := (sub8_v v 1 false).trans (BitVec.sub_zero _)

/-- The flags of INC: the low nibble carries where it was 15 (R255). -/
theorem combinedFlags_inc (s : State) (v : Byte) :
    s.combinedFlags incSources (add8 v 1 false).flags = flagByte (v + 1 == 0) false (v.toNat % 16 = 15) s.flagC := by
  have hcarry : (add8 v 1 false).flags.h = decide (v.toNat % 16 = 15) := by
    rw [(add8_carries v 1 false).1, decide_eq_decide]
    show v.toNat % 16 + 1 + 0 > 15 ↔ v.toNat % 16 = 15
    omega
  rw [← hcarry, ← add8_one]
  rfl

/-- The flags of DEC: the low nibble borrows where it was 0 (R257). -/
theorem combinedFlags_dec (s : State) (v : Byte) :
    s.combinedFlags decSources (sub8 v 1 false).flags = flagByte (v - 1 == 0) true (v.toNat % 16 = 0) s.flagC := by
  have hborrow : (sub8 v 1 false).flags.h = decide (v.toNat % 16 = 0) := by
    rw [(sub8_borrows v 1 false).1, decide_eq_decide]
    show v.toNat % 16 < 1 + 0 ↔ v.toNat % 16 = 0
    omega
  rw [← hborrow, ← sub8_one]
  rfl

/-- The flags of a 16-bit sum with a signed byte are those of the low bytes (R262, R263). -/
theorem combinedFlags_addSP (s : State) (l : Word) (e : Byte) :
    s.combinedFlags addSPSources (add16L l (sext16 e)).flags =
      flagByte false false (l.toNat % 16 + e.toNat % 16 > 15) (l.toNat % 256 + e.toNat > 255) := by
  obtain ⟨hnibble, hbyte⟩ := sext16_low e
  rw [← hnibble, ← hbyte]
  rfl

/-- Code 11 stands for SP (R27). -/
theorem State.pairSP_eq (s : State) (p : Pair) : s.pairSP p = if p = .af then s.sp else s.pair p := by
  cases p <;> rfl

/-! ### The statements -/

/-- Settles O28: the six meanings put one sum in A, the last two after one read. -/
theorem addAndAddWithCarry : Obligations.AddAndAddWithCarry := by
  intro s r n
  simp only [sumInA_eq s]
  refine ⟨?_, ?_, ?_, ?_, ?_, ?_⟩
  · exact .of_exec rfl ((Changed.setAccumulator s _).retire _)
  · exact .of_exec rfl ((Changed.setAccumulator s _).retire _)
  · exact .of_exec rfl ((Changed.setAccumulator s _).retire _)
  · exact .of_exec rfl ((Changed.setAccumulator s _).retire _)
  · exact .of_exec rfl ((Changed.readHL_setAccumulator s _).retire _)
  · exact .of_exec rfl ((Changed.readHL_setAccumulator s _).retire _)

/-- Settles O29: the six meanings put one difference in A, the last two after one read. -/
theorem subtractAndSubtractWithCarry : Obligations.SubtractAndSubtractWithCarry := by
  intro s r n
  simp only [differenceInA_eq s]
  refine ⟨?_, ?_, ?_, ?_, ?_, ?_⟩
  · exact .of_exec rfl ((Changed.setAccumulator s _).retire _)
  · exact .of_exec rfl ((Changed.setAccumulator s _).retire _)
  · exact .of_exec rfl ((Changed.setAccumulator s _).retire _)
  · exact .of_exec rfl ((Changed.setAccumulator s _).retire _)
  · exact .of_exec rfl ((Changed.readHL_setAccumulator s _).retire _)
  · exact .of_exec rfl ((Changed.readHL_setAccumulator s _).retire _)

/-- Settles O30: the three meanings write the flags of a difference and no value. -/
theorem compareWritesFlagsOnly : Obligations.CompareWritesFlagsOnly := by
  intro s r n
  simp only [differenceFlags_eq s]
  have h := Changed.refl s
  refine ⟨?_, ?_, ?_⟩
  · exact .of_exec rfl ((h.writeFlags nofun _ _).retire _)
  · exact .of_exec rfl ((h.writeFlags nofun _ _).retire _)
  · exact .of_exec rfl (((h.memRead (s.pair .hl)).writeFlags nofun _ _).retire _)

/-- Settles O31: an operation on a register or on the HL-pointed byte whose C is the CPU's. -/
theorem incrementAndDecrementBytes : Obligations.IncrementAndDecrementBytes := by
  intro s r
  simp only [← combinedFlags_inc s, ← combinedFlags_dec s]
  simp only [← add8_one, ← sub8_one]
  refine ⟨?_, ?_, fun hm => ⟨?_, ?_⟩⟩
  · exact .of_exec rfl ((Changed.updateR8 s r _ _).retire _)
  · exact .of_exec rfl ((Changed.updateR8 s r _ _).retire _)
  · exact .of_exec rfl ((Changed.updateHL hm _ _).retire _)
  · exact .of_exec rfl ((Changed.updateHL hm _ _).retire _)

/-- Settles O32: both meanings set the pair, or SP by its code, and no flag. -/
theorem incrementAndDecrementPairs : Obligations.IncrementAndDecrementPairs := by
  intro s p
  rw [← s.pairSP_eq p]
  constructor
  · exact .of_exec rfl ((Changed.setPairSP s p _).retire _)
  · exact .of_exec rfl ((Changed.setPairSP s p _).retire _)

/-- Settles O33: HL or SP takes the sum, and F its flags. -/
theorem sixteenBitAdds : Obligations.SixteenBitAdds := by
  intro s p e
  rw [← s.pairSP_eq p, ← sext16_eq, ← combinedFlags_addSP s]
  refine ⟨?_, ?_, ?_⟩
  · exact .of_exec rfl ((Changed.setHLFlags s _ _ _).retire _)
  · exact .of_exec rfl ((((Changed.refl s).withSp _).writeFlags nofun _ _).retire _)
  · exact .of_exec rfl ((Changed.setHLFlags s _ _ _).retire _)

end Sys2Proof.Machine
end

section
/-! SUPPORT. The records of the logical operations and of the decimal adjustment in the words of the statements; then the
statements about logic, complement, decimal adjust and the carry flag (43_logic.md). -/

namespace Sys2Proof.Machine

/-! ### The ALU's records in the words of the statements (R148-R151) -/

/-- A conjunction in A, with all its flags: H is 1. -/
theorem andInA_eq (s : State) (a x : Byte) :
    logicInA (a &&& x) true = [(.a, (and8 a x).v), (.f, s.combinedFlags .fromAlu (and8 a x).flags)] := rfl

/-- A disjunction in A, with all its flags: H is 0. -/
theorem orInA_eq (s : State) (a x : Byte) :
    logicInA (a ||| x) false = [(.a, (or8 a x).v), (.f, s.combinedFlags .fromAlu (or8 a x).flags)] := rfl

/-- An exclusive disjunction in A, with all its flags: H is 0. -/
theorem xorInA_eq (s : State) (a x : Byte) :
    logicInA (a ^^^ x) false = [(.a, (xor8 a x).v), (.f, s.combinedFlags .fromAlu (xor8 a x).flags)] := rfl

/-- The flags of DAA: Z is that of the adjusted value, and C says whether the high digit was corrected (R290). -/
theorem combinedFlags_daa (s : State) (v : Byte) :
    s.combinedFlags daaSources (bcdAdjust v s.flagN s.flagH s.flagC).flags =
      flagByte ((bcdAdjust v s.flagN s.flagH s.flagC).v == 0) s.flagN false
        (s.flagC || (!s.flagN && v.toNat > 0x99)) := rfl

/-! ### The statements -/

/-- Settles O34: each operation puts its record in A and F, from a register, an immediate, and after one read. -/
theorem andOrXor : Obligations.AndOrXor := by
  intro s r n
  simp only [andInA_eq s, orInA_eq s, xorInA_eq s]
  refine ⟨?_, ?_, ?_, ?_, ?_, ?_, ?_, ?_, ?_⟩
  · exact .of_exec rfl ((Changed.setAccumulator s _).retire _)
  · exact .of_exec rfl ((Changed.setAccumulator s _).retire _)
  · exact .of_exec rfl ((Changed.readHL_setAccumulator s _).retire _)
  · exact .of_exec rfl ((Changed.setAccumulator s _).retire _)
  · exact .of_exec rfl ((Changed.setAccumulator s _).retire _)
  · exact .of_exec rfl ((Changed.readHL_setAccumulator s _).retire _)
  · exact .of_exec rfl ((Changed.setAccumulator s _).retire _)
  · exact .of_exec rfl ((Changed.setAccumulator s _).retire _)
  · exact .of_exec rfl ((Changed.readHL_setAccumulator s _).retire _)

/-- Settles O35: the complement and the decimal adjustment are set in A, and then their flags; SCF and CCF write flags
alone. -/
theorem complementDecimalAdjustAndCarryFlag : Obligations.ComplementDecimalAdjustAndCarryFlag := by
  intro s a fixL fixH fix v
  have hcpl : ~~~a = a ^^^ 0xFF := (xor_ff a).symm
  have hdaa : v = (bcdAdjust a s.flagN s.flagH s.flagC).v := (bcdAdjust_v a _ _ _).symm
  rw [hcpl, hdaa, ← combinedFlags_daa s a]
  have h := Changed.refl s
  have inA (w : Byte) := h.setRegFlags (r := .a) nofun nofun nofun w
  refine ⟨?_, ?_, ?_, ?_⟩
  · exact .of_exec rfl ((inA _ _ _).retire _)
  · exact .of_exec rfl ((inA _ _ _).retire _)
  · exact .of_exec rfl ((h.writeFlags nofun _ _).retire _)
  · exact .of_exec rfl ((h.writeFlags nofun _ _).retire _)

end Sys2Proof.Machine
end

section
/-! SUPPORT. Every rotate, shift and swap leaves the record of one value and one carry: how such a record extends what has
changed so far, per operand. Then the statements about rotates, shifts and swap (44_rotate_shift.md). -/

namespace Sys2Proof.Machine

/-! ### The record of a rotate, a shift or a swap in the words of the statements (R152-R157) -/

/-- The flags of a rotate of A: Z is 0 whatever the value (R160). -/
theorem combinedFlags_rotA (s : State) (v : Byte) (c : Bool) :
    s.combinedFlags rotASources (shiftRecord v c).flags = flagByte false false false c := rfl

/-- All the flags of a rotate, a shift or a swap: Z is the value's own. -/
theorem combinedFlags_shift (s : State) (v : Byte) (c : Bool) :
    s.combinedFlags .fromAlu (shiftRecord v c).flags = shiftFlags v c := rfl

namespace Changed

variable {s : State} {alu : Alu8} {v : Byte} {c : Bool}

/-- A rotate of A as a whole (R300-R303). -/
theorem rotateA (h : alu = shiftRecord v c) :
    Changed s (s.updateR8 .a alu rotASources)
      { pc := s.pc, cost := 0, regs := [(.a, v), (.f, flagByte false false false c)] } := by
  rw [h, ← combinedFlags_rotA s v c]
  exact updateR8 s .a _ _

/-- A rotate, a shift or a swap of a register as a whole (R304-R307, R312-R314, R318). -/
theorem shiftR8 (r : R8) (h : alu = shiftRecord v c) :
    Changed s (s.updateR8 r alu .fromAlu)
      { pc := s.pc, cost := 0, regs := [(r.toReg, v), (.f, shiftFlags v c)] } := by
  rw [h, ← combinedFlags_shift s v c]
  exact updateR8 s r _ _

/-- A rotate, a shift or a swap of the HL-pointed byte as a whole (R308-R311, R315-R317, R319). -/
theorem shiftHL (hm : s.MemClean) (h : alu = shiftRecord v c) :
    Changed s (s.readHL.2.updateHL alu .fromAlu)
      { pc := s.pc, cost := 0, regs := [(.f, shiftFlags v c)]
        bus := [.read (s.pair .hl) (s.answer (s.pair .hl)), .write (s.pair .hl) v] } := by
  rw [h, ← combinedFlags_shift s v c]
  exact updateHL hm _ _

end Changed

/-! ### The statements -/

/-- Settles O36: the four meanings rotate A, each by its own record, with Z not taken from it. -/
theorem accumulatorRotates : Obligations.AccumulatorRotates := by
  intro s a
  refine ⟨?_, ?_, ?_, ?_⟩
  · exact .of_exec rfl ((Changed.rotateA (rotate_left_eq a)).retire _)
  · exact .of_exec rfl ((Changed.rotateA (rotate_right_eq a)).retire _)
  · exact .of_exec rfl ((Changed.rotateA (rotateCarry_left_eq a s.flagC)).retire _)
  · exact .of_exec rfl ((Changed.rotateA (rotateCarry_right_eq a s.flagC)).retire _)

/-- Settles O37: the eight meanings are one operation on a register, each by its own record. -/
theorem rotatesShiftsAndSwapOfARegister : Obligations.RotatesShiftsAndSwapOfARegister := by
  intro s r x
  refine ⟨?_, ?_, ?_, ?_, ?_, ?_, ?_, ?_⟩
  · exact .of_exec rfl ((Changed.shiftR8 r (rotate_left_eq x)).retire _)
  · exact .of_exec rfl ((Changed.shiftR8 r (rotate_right_eq x)).retire _)
  · exact .of_exec rfl ((Changed.shiftR8 r (rotateCarry_left_eq x s.flagC)).retire _)
  · exact .of_exec rfl ((Changed.shiftR8 r (rotateCarry_right_eq x s.flagC)).retire _)
  · exact .of_exec rfl ((Changed.shiftR8 r (shiftLeft_eq x)).retire _)
  · exact .of_exec rfl ((Changed.shiftR8 r (shiftRightA_eq x)).retire _)
  · exact .of_exec rfl ((Changed.shiftR8 r (shiftRightL_eq x)).retire _)
  · exact .of_exec rfl ((Changed.shiftR8 r (swapNibbles_eq x)).retire _)

/-- Settles O38: the eight meanings are one operation on the HL-pointed byte, each by its own record. -/
theorem rotatesShiftsAndSwapThroughHL : Obligations.RotatesShiftsAndSwapThroughHL := by
  intro s hm hl m
  refine ⟨?_, ?_, ?_, ?_, ?_, ?_, ?_, ?_⟩
  · exact .of_exec rfl ((Changed.shiftHL hm (rotate_left_eq m)).retire _)
  · exact .of_exec rfl ((Changed.shiftHL hm (rotate_right_eq m)).retire _)
  · exact .of_exec rfl ((Changed.shiftHL hm (rotateCarry_left_eq m s.flagC)).retire _)
  · exact .of_exec rfl ((Changed.shiftHL hm (rotateCarry_right_eq m s.flagC)).retire _)
  · exact .of_exec rfl ((Changed.shiftHL hm (shiftLeft_eq m)).retire _)
  · exact .of_exec rfl ((Changed.shiftHL hm (shiftRightA_eq m)).retire _)
  · exact .of_exec rfl ((Changed.shiftHL hm (shiftRightL_eq m)).retire _)
  · exact .of_exec rfl ((Changed.shiftHL hm (swapNibbles_eq m)).retire _)

end Sys2Proof.Machine
end

section
/-! SUPPORT. The record of a bit test and the bytes of a bit written, in the words of the statements; then the statements
about single bits (45_bit.md). -/

namespace Sys2Proof.Machine

/-! ### Single bits in the words of the statements (R37, R340) -/

/-- The flags of BIT: Z is the inverse of the bit, and C is the CPU's (R340). -/
theorem combinedFlags_bit (s : State) (v : Byte) (u : BitVec 3) :
    s.combinedFlags bitSources (bitTest v u).flags = flagByte (!v.getLsbD u.toNat) false true s.flagC := rfl

/-- A byte with one bit cleared. -/
theorem setBit_false (v : Byte) (i : Nat) : setBit v i false = v &&& ~~~BitVec.twoPow 8 i := setBit_eq v i false

/-- A byte with one bit set. -/
theorem setBit_true (v : Byte) (i : Nat) : setBit v i true = v ||| BitVec.twoPow 8 i := setBit_eq v i true

/-- The HL-pointed byte read, and `v` written back to the same address (R343, R345). -/
theorem Changed.readHL_memWrite {s : State} (hm : s.MemClean) (v : Byte) :
    Changed s (s.readHL.2.memWrite s.hlAddr v)
      { pc := s.pc, cost := 0, bus := [.read (s.pair .hl) (s.answer (s.pair .hl)), .write (s.pair .hl) v] } :=
  ((Changed.refl s).memRead (s.pair .hl)).memWrite hm (by simp [writeAddress]) v

/-! ### The statements -/

/-- Settles O39: both meanings write the flags of a bit test and no value, the second after one read. -/
theorem bitTests : Obligations.BitTests := by
  intro s u r
  simp only [← combinedFlags_bit s]
  have h := Changed.refl s
  constructor
  · exact .of_exec rfl ((h.writeFlags nofun _ _).retire _)
  · exact .of_exec rfl (((h.memRead (s.pair .hl)).writeFlags nofun _ _).retire _)

/-- Settles O40: a register or the HL-pointed byte takes its own value with the one bit written, and no flag is. -/
theorem bitResetsAndSets : Obligations.BitResetsAndSets := by
  intro s u r
  simp only [← setBit_false, ← setBit_true]
  have h := Changed.refl s
  refine ⟨?_, ?_, fun hm => ⟨?_, ?_⟩⟩
  · exact .of_exec rfl ((h.setReg nofun _).retire _)
  · exact .of_exec rfl ((h.setReg nofun _).retire _)
  · exact .of_exec rfl ((Changed.readHL_memWrite hm _).retire _)
  · exact .of_exec rfl ((Changed.readHL_memWrite hm _).retire _)

end Sys2Proof.Machine
end

section
/-! SUPPORT. The two ends of a transfer of control, the conditional form of an instruction, and the restart target; then
the statements about jumps, calls, restarts and returns (46_control.md). -/

namespace Sys2Proof.Machine

/-! ### Conditions and targets in the words of the statements (R360, R368) -/

theorem State.cond_eq_condHolds (s : State) (cc : Cond) : s.cond cc = condHolds cc s := by
  cases cc
  case nz | nc => exact (beq_false _).symm
  case z | c => exact (beq_true _).symm

theorem restartTarget_eq (u : BitVec 3) : u.setWidth 16 * 8 = BitVec.ofNat 16 (8 * u.toNat) := by
  bv_omega

namespace Changed

variable {s u : State} {c : Change}

theorem withIme (h : Changed s u c) (b : Bool) : Changed s { u with ime := b } { c with ime := some b } :=
  { h with ime := rfl }

/-- A call as a whole: the return address is pushed, and PC takes the target (R366-R368). -/
theorem call {s : State} (hm : s.MemClean) (i : Instr) (target : Word) (taken : Bool) :
    Changed s (s.call i target taken)
      { pc := target, cost := i.cycles + if taken then i.extraCycles else 0, sp := some (s.sp - 2)
        bus := pushed s (s.nextPC i) } := by
  have h := ((refl s).push16 hm nofun (s.nextPC i)).complete i target taken
  rwa [Nat.zero_add] at h

/-- A pop into PC, whatever has changed before it (R369-R371). -/
theorem pop16_complete (h : Changed s u c) (i : Instr) (taken : Bool) :
    Changed s (u.pop16.2.complete i u.pop16.1 taken)
      { c with
        pc := poppedHigh u ++ poppedLow u, cost := c.cost + (i.cycles + if taken then i.extraCycles else 0)
        sp := some (u.sp + 2), bus := c.bus ++ popped u } :=
  h.pop16.complete i u.pop16.1 taken

end Changed

/-- The rule of a conditional instruction: it makes the change `c` where the condition holds, and else only goes on to the
next instruction at the base cost (R360). -/
theorem Rule.of_cond {bs : List Byte} {i : Instr} {s t : State} {cc : Cond} {c d : Change}
    (hexec : exec i s = .next (if s.cond cc then t else s.retire i)) (h : Changed s t d) (hc : d = c := by rfl)
    (hbs : encode i = bs := by rfl) (hwf : WellFormed i = true := by rfl) :
    Rule bs i s (if condHolds cc s then c else { pc := s.pc + BitVec.ofNat 16 i.length, cost := i.cycles }) := by
  rw [s.cond_eq_condHolds] at hexec
  cases hcc : condHolds cc s
  case true => exact .of_exec (hexec.trans (by rw [hcc, if_pos rfl])) h hc hbs hwf
  case false =>
    have hretire := (Changed.refl s).retire i
    rw [Nat.zero_add] at hretire
    exact .of_exec (hexec.trans (by rw [hcc, if_neg Bool.false_ne_true])) hretire rfl hbs hwf

/-! ### The statements -/

/-- Settles O41: the five meanings write PC and sched alone, two of them under a condition. -/
theorem jumpsAbsoluteAndRelative : Obligations.JumpsAbsoluteAndRelative := by
  intro s cc n e
  rw [imm16Bytes_eq, ← sext16_eq]
  have h := Changed.refl s
  refine ⟨?_, ?_, ?_, ?_, ?_⟩
  · exact .of_exec rfl (h.complete _ n false)
  · exact .of_cond rfl (h.complete _ n true)
  · exact .of_exec rfl (h.complete _ (s.pair .hl) false)
  · exact .of_exec rfl (h.complete _ (s.pc + 2 + sext16 e) false)
  · exact .of_cond rfl (h.complete _ (s.pc + 2 + sext16 e) true)

/-- Settles O42: the three meanings are one call, the second under a condition. -/
theorem callsAndRestarts : Obligations.CallsAndRestarts := by
  intro s cc n u hm
  rw [imm16Bytes_eq, ← restartTarget_eq]
  refine ⟨?_, ?_, ?_⟩
  · exact .of_exec rfl (Changed.call hm _ n false)
  · exact .of_cond rfl (Changed.call hm _ n true)
  · exact .of_exec rfl (Changed.call hm _ (u.setWidth 16 * 8) false)

/-- Settles O43: the three meanings are one pop into PC, the second under a condition, the third with IME set before it. -/
theorem returns : Obligations.Returns := by
  intro s cc back
  have h := Changed.refl s
  refine ⟨?_, ?_, ?_⟩
  · exact .of_exec rfl (h.pop16_complete _ false)
  · exact .of_cond rfl (h.pop16_complete _ true)
  · exact .of_exec rfl ((h.withIme true).pop16_complete _ false)

end Sys2Proof.Machine
end

section
/-! SUPPORT. The statements about NOP, DI and EI, and about STOP and the slots with no descriptor (47_system.md). -/

namespace Sys2Proof.Machine

/-- The second byte of STOP is passed over, whatever it is (R384). -/
theorem Encodes.stop (x : Byte) : Encodes [0x10, x] .stop := .two rfl fun _ => rfl

/-! ### The statements -/

/-- Settles O44: the three meanings go on to the next instruction, two of them with IME written before it. -/
theorem nopDiEi : Obligations.NopDiEi := by
  intro s
  have h := Changed.refl s
  refine ⟨?_, ?_, ?_⟩
  · exact .of_exec rfl (h.retire _)
  · exact .of_exec rfl ((h.withIme false).retire _)
  · exact .of_exec rfl ((h.withIme true).retire _)

/-- Settles O46: both meanings raise a fault and do nothing else, and the decoder reads the two from their bytes. -/
theorem stopAndUnmappedRecordTheFaultOnly : Obligations.StopAndUnmappedRecordTheFaultOnly :=
  fun _ _ x => ⟨.stop x, rfl, .unmapped, rfl⟩

end Sys2Proof.Machine
end

section
/-! SUPPORT. That no instruction reads sched; then the statements about what every instruction promises and about HALT
(60_exceptions.md R411, R412, R417, R428). -/

namespace Sys2Proof.Machine

/-! ### Two states that differ in sched alone (R428, R458) -/

/-- The two outcomes are next states that differ in sched alone. -/
def EqualUpToSched (r q : Result) : Prop := ∃ t c, r = .next t ∧ q = .next { t with sched := c }

theorem State.store_withSched (s : State) (c : Option Nat) (a : Word) (w : Byte) :
    ({ s with sched := c } : State).store a w = { s.store a w with sched := c } := by
  unfold State.store
  split_ifs
  · rfl
  · rfl
  · rfl
  · rfl

theorem State.memWrite_withSched (s : State) (c : Option Nat) (a : Word) (w : Byte) :
    ({ s with sched := c } : State).memWrite a w = { s.memWrite a w with sched := c } := by
  rw [State.memWrite, State.store_withSched]
  rfl

theorem State.memWrite16_withSched (s : State) (c : Option Nat) (a w : Word) :
    ({ s with sched := c } : State).memWrite16 a w = { s.memWrite16 a w with sched := c } := by
  rw [State.memWrite16, s.memWrite_withSched]
  exact State.memWrite_withSched _ c _ _

theorem State.push16_withSched (s : State) (c : Option Nat) (w : Word) :
    ({ s with sched := c } : State).push16 w = { s.push16 w with sched := c } :=
  State.memWrite16_withSched { s with sp := s.sp - 2 } c (s.sp - 2) w

theorem State.updateHL_withSched (s : State) (c : Option Nat) (alu : Alu8) (src : FlagSources) :
    ({ s with sched := c } : State).updateHL alu src = { s.updateHL alu src with sched := c } :=
  congrArg (State.writeFlags · src alu.flags) (s.memWrite_withSched c s.hlAddr alu.v)

namespace EqualUpToSched

variable {u v : State} {c : Option Nat}

theorem complete (h : v = { u with sched := c }) (i : Instr) (target : Word) (taken : Bool) :
    EqualUpToSched (.next (u.complete i target taken)) (.next (v.complete i target taken)) := by
  subst h
  exact ⟨_, _, rfl, rfl⟩

theorem retire (h : v = { u with sched := c }) (i : Instr) :
    EqualUpToSched (.next (u.retire i)) (.next (v.retire i)) := by
  subst h
  exact ⟨_, _, rfl, rfl⟩

/-- A conditional instruction reads the same flags, so it takes the same branch. -/
theorem conditional (b : Bool) {u' v' : State} (h : EqualUpToSched (.next u) (.next v))
    (h' : EqualUpToSched (.next u') (.next v')) :
    EqualUpToSched (.next (if b then u else u')) (.next (if b then v else v')) := by
  cases b
  · exact h'
  · exact h

end EqualUpToSched

open EqualUpToSched in
/-- Every instruction but the prefix, by the store in it, if any. -/
theorem exec_withSched_plain {i : Instr} (hi : ∀ b, i ≠ .prefixCB b) (s : State) (c : Option Nat) :
    EqualUpToSched (exec i s) (exec i { s with sched := c }) := by
  cases i
  case prefixCB b => exact absurd rfl (hi b)
  -- one store
  case ldHLR8 | ldHLN8 | ldBCA | ldDEA | ldN16A | ldhN8A | ldhCA => exact retire (s.memWrite_withSched c _ _) _
  case ldHLIA | ldHLDA => exact retire (congrArg (State.setPair · .hl _) (s.memWrite_withSched c _ _)) _
  -- one store of the byte read before it
  case resHL | setHL => exact retire (s.readHL.2.memWrite_withSched c _ _) _
  case incHL | decHL | rlcHL | rrcHL | rlHL | rrHL | slaHL | sraHL | swapHL | srlHL =>
    exact retire (s.readHL.2.updateHL_withSched c _ _) _
  -- two stores
  case ldN16SP => exact retire (s.memWrite16_withSched c _ _) _
  case pushR16 => exact retire (s.push16_withSched c _) _
  case callN16 | rstU3 => exact complete (s.push16_withSched c _) _ _ _
  -- under a condition
  case callCcN16 cc _ => exact conditional (s.cond cc) (complete (s.push16_withSched c _) _ _ _) (retire rfl _)
  case jpCcN16 cc _ | jrCcE8 cc _ | retCc cc => exact conditional (s.cond cc) ⟨_, _, rfl, rfl⟩ ⟨_, _, rfl, rfl⟩
  case ldR16N16 p _ | incR16 p | decR16 p => cases p <;> exact ⟨_, _, rfl, rfl⟩
  -- no store
  all_goals exact ⟨_, _, rfl, rfl⟩

/-- No instruction reads sched. -/
theorem exec_withSched (i : Instr) (s : State) (c : Option Nat) :
    EqualUpToSched (exec i s) (exec i { s with sched := c }) := by
  by_cases hi : ∃ b, i = .prefixCB b
  · obtain ⟨b, rfl⟩ := hi
    have h := exec_withSched_plain (decodePrefixed_ne_prefixCB b) s c
    rw [← execPrefixCB_eq, ← execPrefixCB_eq] at h
    exact h
  · exact exec_withSched_plain (not_exists.mp hi) s c

/-! ### The statements -/

/-- Settles O58, from the three ways an instruction can end: one that completes moves sched on by its cost, which is 1 to 6;
HALT parks; only STOP and an unmapped slot fault. -/
theorem everyOtherInstructionCompletesAndSchedIncreases :
    Obligations.EveryOtherInstructionCompletesAndSchedIncreases := by
  intro i s hstop hslot
  obtain ⟨t, ht⟩ := exec_next i s
  refine ⟨t, ht, ?_⟩
  cases exec_ends ht with
  | completes target taken mapped work eq =>
    obtain ⟨hlow, hhigh⟩ := Instr.cost_bounds mapped
    refine ⟨eq ▸ work.fault, fun n hn _ => ⟨n + (i.cycles + if taken then i.extraCycles else 0), ?_, ?_⟩⟩
    · rw [eq, State.complete_sched, work.sched, hn, Option.map_some]
    · split <;> omega
  | parks halt eq => exact ⟨eq ▸ rfl, fun _ _ hhalt => absurd halt hhalt⟩
  | faults _ unmeant _ =>
    obtain ⟨stop, -⟩ | ⟨b, slot, -⟩ := unmeant
    · exact absurd stop hstop
    · exact absurd slot (hslot b)

/-- Settles O59: two outcomes that are equal up to sched are equal once sched is. -/
theorem noInstructionReadsSched : Obligations.NoInstructionReadsSched := by
  intro i s c
  obtain ⟨t, d, ht, hu⟩ := exec_withSched i s c
  exact ⟨t, { t with sched := d }, ht, hu, rfl⟩

/-- Settles O45: the meaning of HALT, and its byte. -/
theorem haltParks : Obligations.HaltParks := fun _ => ⟨encodes_encode (i := .halt) rfl, rfl⟩

end Sys2Proof.Machine
end

section
/-! SUPPORT. The environment's writes as a whole, what is fetched where an instruction is meant and where none is, and the
tick of a CORE that dispatches, parked before or not; then the statements about reset, the tick and the step
(60_exceptions.md, 70_reset_and_hazards.md). -/

namespace Sys2Proof

/-! ### What three bytes hold -/

/-- Instructions with the same bytes are the same (R119). -/
theorem eq_of_encode_eq {i j : Instr} (hi : WellFormed i = true) (hj : WellFormed j = true) (h : encode i = encode j) :
    i = j := by
  have hdecode := Machine.encodes_encode hi []
  rw [h, Machine.encodes_encode hj []] at hdecode
  cases hdecode
  rfl

/-- But for STOP, only the bytes of the instruction itself determine it (R114, R117). -/
theorem decodeBytes_congr {b0 b1 b2 c1 c2 : Byte} (hstop : b0 ≠ 0x10)
    (h : [b1, b2].take (bytesAfter b0) = [c1, c2].take (bytesAfter b0)) : decodeBytes b0 b1 b2 = decodeBytes b0 c1 c2 := by
  apply eq_of_encode_eq (decodeBytes_wellFormed b0 b1 b2) (decodeBytes_wellFormed b0 c1 c2)
  rw [encode_decodeBytes hstop, encode_decodeBytes hstop, h]

/-- But for STOP, the CORE reads all the bytes of an instruction (R384), two or fewer after the first. -/
theorem bytesReadAfter_eq {b0 : Byte} (hstop : b0 ≠ 0x10) : bytesReadAfter b0 = bytesAfter b0 := by
  revert b0; decide

theorem bytesAfter_cases (b0 : Byte) : bytesAfter b0 = 0 ∨ bytesAfter b0 = 1 ∨ bytesAfter b0 = 2 := by
  revert b0; decide

/-- Of all instructions the unmapped slots alone have no descriptor. -/
theorem Instr.descriptor_eq_none {i : Instr} : i.descriptor = none ↔ ∃ b, i = .unmapped b := by
  refine ⟨fun h => ?_, fun ⟨_, h⟩ => h ▸ rfl⟩
  cases i
  case unmapped b => exact ⟨b, rfl⟩
  case prefixCB b =>
    obtain ⟨d, hd, -⟩ := decodePrefixed_descriptor b
    rw [descriptor_prefixCB, hd] at h
    cases h
  all_goals cases h

/-- An unmapped slot is read from the eleven first bytes of R115 alone. -/
theorem decodeBytes_eq_unmapped {b0 b1 b2 : Byte} :
    (∃ c, decodeBytes b0 b1 b2 = .unmapped c) ↔ b0 ∈ unmappedSlots :=
  Instr.descriptor_eq_none.symm.trans (Machine.theElevenUnmappedSlots.1 b0 b1 b2)

/-- Outside those slots the length counts the opcode and the bytes after it. -/
theorem decodeBytes_length_eq {b0 : Byte} (h : b0 ∉ unmappedSlots) (b1 b2 : Byte) :
    (decodeBytes b0 b1 b2).length = bytesAfter b0 + 1 := by
  rw [decodeBytes_length]
  revert b0; decide

end Sys2Proof

namespace Sys2Proof.Machine

/-! ### The environment's writes (R418) -/

theorem State.store_withEnv (s : State) (ws : List EnvWrite) (a : Word) (v : Byte) :
    ({ s with env := ws } : State).store a v = { s.store a v with env := ws } := by
  unfold State.store
  split_ifs
  · rfl
  · rfl
  · rfl
  · rfl

/-- What is made of the writes `ws` does not depend on the queue they are taken from. -/
theorem applyDue_withEnv (now : Nat) (ws queue : List EnvWrite) (s : State) :
    applyDue now ws { s with env := queue } = applyDue now ws s := by
  induction ws generalizing s with
  | nil => rfl
  | cons w rest ih =>
    unfold applyDue
    split
    · rw [State.store_withEnv, ih]
    · rfl

/-- Only IE, IF, memory and the queue change. -/
theorem State.takeEnv_eq (s : State) :
    s.takeEnv = { s with ie := s.takeEnv.ie, iflag := s.takeEnv.iflag, mem := s.takeEnv.mem, env := s.takeEnv.env } :=
  calc s.takeEnv = { s.takeEnv with ie := s.takeEnv.ie } := rfl
    _ = _ := by simp

/-! ### Fetching (R409, R74) -/

variable {s : State}

/-- What is fetched is decoded from the byte at PC and bytes after it (R409). -/
theorem State.fetch_decodes (s : State) : ∃ b1 b2, s.fetch.1 = decodeBytes (s.answer s.pc) b1 b2 := by
  unfold State.fetch
  dsimp only
  split
  · exact ⟨_, _, rfl⟩
  · exact ⟨_, _, rfl⟩
  · exact ⟨_, _, rfl⟩

/-- A fetch does not read sched (R428). -/
theorem State.fetch_withSched (s : State) (c : Option Nat) :
    ({ s with sched := c } : State).fetch = (s.fetch.1, { s.fetch.2 with sched := c }) := by
  simp only [State.fetch, State.memRead_fst, State.answer_withSched]
  split
  · rfl
  · rfl
  · rfl

/-- At a slot with no descriptor the opcode alone is read (R413). -/
theorem State.fetch_unmapped (h : s.answer s.pc ∈ unmappedSlots) :
    s.fetch = (.unmapped (s.answer s.pc), { s with bus := .read s.pc (s.answer s.pc) :: s.bus }) := by
  have hslot : ∀ b ∈ unmappedSlots, bytesReadAfter b = 0 ∧ decodeBytes b 0 0 = .unmapped b := by decide
  obtain ⟨hread, hdecode⟩ := hslot _ h
  rw [s.fetch_one hread, hdecode, State.memRead]

/-- At STOP the opcode alone is read (R384). -/
theorem State.fetch_stop (h : s.answer s.pc = 0x10) :
    s.fetch = (.stop, { s with bus := .read s.pc (s.answer s.pc) :: s.bus }) := by
  rw [s.fetch_one (h ▸ rfl), decodeBytes_eq_stop.mpr h, State.memRead]

/-- Elsewhere the fetch is the instruction that the three bytes at PC hold, and reads as many of them as are its own. -/
theorem State.fetch_of_decodeBytes {b0 b1 b2 : Byte} {i : Instr} (h0 : s.answer s.pc = b0)
    (h1 : (s.memRead s.pc).2.answer (s.pc + 1) = b1)
    (h2 : ((s.memRead s.pc).2.memRead (s.pc + 1)).2.answer (s.pc + 2) = b2) (hi : decodeBytes b0 b1 b2 = i)
    (hstop : i ≠ .stop) (hslot : ∀ b, i ≠ .unmapped b) :
    s.fetch = (i,
      { s with
        bus := ([BusEvent.read s.pc b0, .read (s.pc + 1) b1, .read (s.pc + 2) b2].take i.length).reverse ++ s.bus }) := by
  subst hi
  have hb0 : b0 ≠ 0x10 := mt decodeBytes_eq_stop.mpr hstop
  have hread : bytesReadAfter b0 = bytesAfter b0 := bytesReadAfter_eq hb0
  rw [decodeBytes_length_eq (mt decodeBytes_eq_unmapped.mpr (not_exists.mpr hslot))]
  obtain h | h | h := bytesAfter_cases b0
  · have hown : decodeBytes b0 b1 b2 = decodeBytes b0 0 0 := decodeBytes_congr hb0 (by simp [h])
    rw [hown, h]
    subst h0 h1 h2
    exact s.fetch_one (hread.trans h)
  · have hown : decodeBytes b0 b1 b2 = decodeBytes b0 b1 0 := decodeBytes_congr hb0 (by simp [h])
    rw [hown, h]
    subst h0 h1 h2
    exact s.fetch_two (hread.trans h)
  · rw [h]
    subst h0 h1 h2
    exact s.fetch_three (hread.trans h)

@[simp] theorem State.fetch_fault (s : State) : s.fetch.2.fault = s.fault := by
  obtain ⟨reads, h, -⟩ := s.fetch_bus
  rw [h]

/-! ### A tick that dispatches (R401) -/

theorem keepSchedOnFault_eq (before : Option Nat) (t : State) :
    keepSchedOnFault before (.next t) = .next (if t.fault = none then t else { t with sched := before }) := by
  rw [keepSchedOnFault_next]
  cases t.fault <;> rfl

/-- Un-parking changes sched alone (R402). -/
theorem State.wake_eq (s : State) : s.wake = { s with sched := s.wake.sched } := by
  unfold State.wake
  split <;> rfl

theorem Dispatches.wake_eq (h : Dispatches s) : s.wake = s := s.wake_of_scheduled h.2

/-- A parked CORE with something pending and enabled dispatches on this very tick (R402). -/
theorem dispatches_wake (hf : s.fault = none) (hs : s.sched = none) (hp : s.pending ≠ 0) : Dispatches s.wake := by
  rw [s.wake_of_pending hs hp]
  exact ⟨hf, rfl⟩

/-- A tick that services an interrupt (R407). -/
theorem tick_of_accepted (hd : Dispatches s.wake) {i : Source} (ha : s.wake.accepted = some i) :
    tick s = .next (s.wake.enterInterrupt i) := by
  have hf : s.fault = none := s.wake_fault ▸ hd.1
  simp [tick, hf, hd.2, ha]

/-- A tick that runs the instruction at PC (R409). -/
theorem tick_of_not_accepted (hd : Dispatches s.wake) (ha : s.wake.accepted = none) :
    tick s = keepSchedOnFault s.sched (exec s.wake.fetch.1 s.wake.fetch.2) := by
  have hf : s.fault = none := s.wake_fault ▸ hd.1
  simp [tick, hf, hd.2, ha]

/-- The tick at a slot with no descriptor records the fault, and has read the opcode (R413, R416). -/
theorem tick_unmapped (hd : Dispatches s.wake) (ha : s.wake.accepted = none) (hb : s.answer s.pc ∈ unmappedSlots) :
    tick s = .next { s with
      fault := some (.unmappedOpcode s.pc (s.answer s.pc)), bus := .read s.pc (s.answer s.pc) :: s.bus } := by
  rw [tick_of_not_accepted hd ha, s.wake_eq, State.fetch_withSched, State.fetch_unmapped hb]
  rfl

/-- The tick at STOP records the fault, and has read the opcode (R414, R416). -/
theorem tick_stop (hd : Dispatches s.wake) (ha : s.wake.accepted = none) (hb : s.answer s.pc = 0x10) :
    tick s = .next { s with
      fault := some (.stopUnimplemented s.pc 0x10), bus := .read s.pc (s.answer s.pc) :: s.bus } := by
  rw [tick_of_not_accepted hd ha, s.wake_eq, State.fetch_withSched, State.fetch_stop hb]
  rfl

/-- The tick at any other instruction runs it, and records no fault (R409, R417). -/
theorem tick_of_fetch (hd : Dispatches s) (ha : s.accepted = none) (hstop : s.fetch.1 ≠ .stop)
    (hslot : ∀ b, s.fetch.1 ≠ .unmapped b) :
    ∃ t, exec s.fetch.1 s.fetch.2 = .next t ∧ t.fault = none ∧ tick s = .next t := by
  obtain ⟨t, ht, hfault, -⟩ := everyOtherInstructionCompletesAndSchedIncreases s.fetch.1 s.fetch.2 hstop hslot
  have hnone : t.fault = none := (hfault.trans s.fetch_fault).trans hd.1
  refine ⟨t, ht, hnone, ?_⟩
  rw [tick_dispatch s hd.1 hd.2 ha, ht, keepSchedOnFault_eq, if_pos hnone]

/-- A tick always answers a next state (R417, R422). -/
theorem tick_next (s : State) : ∃ t, tick s = .next t := by
  obtain ⟨u, hu⟩ := exec_next s.wake.fetch.1 s.wake.fetch.2
  unfold tick
  dsimp only
  rw [hu, keepSchedOnFault_next]
  split
  · exact ⟨_, rfl⟩
  · split
    · split
      · exact ⟨_, rfl⟩
      · exact ⟨_, rfl⟩
    · exact ⟨_, rfl⟩

/-- A step counts the cycle after its tick (R426). -/
theorem step_of_tick {t : State} (h : tick s.takeEnv = .next t) :
    step s = .next { t with cycle := s.takeEnv.cycle + 1 } := by
  rw [step, h, countCycle_next, (Follows.tick h).cycle]

/-! ### Interrupts (R404-R407, R419) -/

theorem Source.exists_bit {i : Nat} (h : i < 5) : ∃ src : Source, src.bit = i := by
  obtain rfl | rfl | rfl | rfl | rfl : i = 0 ∨ i = 1 ∨ i = 2 ∨ i = 3 ∨ i = 4 := by omega
  · exact ⟨.vblank, rfl⟩
  · exact ⟨.lcdStat, rfl⟩
  · exact ⟨.timer, rfl⟩
  · exact ⟨.serial, rfl⟩
  · exact ⟨.joypad, rfl⟩

theorem Source.bit_lt (i : Source) : i.bit < 5 := by cases i <;> decide

theorem Source.vector_eq (i : Source) : i.vector = BitVec.ofNat 16 (0x40 + 8 * i.bit) := by cases i <;> rfl

/-- Of the five bits that have a source, pending has what IE and IF share (R404). -/
theorem State.pending_getLsbD (s : State) {i : Nat} (h : i < 5) :
    s.pending.getLsbD i = (s.ie &&& s.iflag).getLsbD i := by
  have hmask : ∀ k : Fin 5, (0x1F : Byte).getLsbD k = true := by decide
  rw [State.pending, BitVec.getLsbD_and, hmask ⟨i, h⟩, Bool.and_true]

/-- With IME set the lowest pending and enabled source is accepted (R405). -/
theorem State.accepted_eq {i : Source} (hime : s.ime = true) (hi : (s.ie &&& s.iflag).getLsbD i.bit = true)
    (hlow : ∀ j < i.bit, (s.ie &&& s.iflag).getLsbD j = false) : s.accepted = some i := by
  have hlowest : lowestSource s.pending = some i := by
    refine lowestSource_eq _ i ((s.pending_getLsbD i.bit_lt).trans hi) fun j hj => ?_
    exact (s.pending_getLsbD (hj.trans i.bit_lt)).trans (hlow j hj)
  rw [State.accepted, hime, if_pos rfl, hlowest]

theorem State.pending_ne_zero_of_accepted {i : Source} (h : s.accepted = some i) : s.pending ≠ 0 := by
  intro hp
  rw [s.accepted_none (.inr hp)] at h
  cases h

@[simp] theorem State.enterInterrupt_fault (s : State) (i : Source) : (s.enterInterrupt i).fault = s.fault := by
  simp [State.enterInterrupt]

/-- Interrupt entry, after IME and the IF bit are cleared: a push of PC, then PC and sched (R407, R408). -/
theorem State.enterInterrupt_eq (s : State) (i : Source) :
    s.enterInterrupt i =
      let t := ({ s with ime := false, iflag := s.iflag &&& ~~~BitVec.twoPow 8 i.bit } : State).push16 s.pc
      { t with pc := BitVec.ofNat 16 (0x40 + 8 * i.bit), sched := t.sched.map fun n => n + 5 } := by
  rw [State.enterInterrupt, i.vector_eq, BitVec.twoPow_eq, Config.interruptLatency]

/-- A transfer of control that is no instruction's. -/
theorem Changed.transfer {u : State} {c : Change} (h : Changed s u c) (target : Word) (cost : Nat) :
    Changed s { u with pc := target, sched := u.sched.map fun n => n + cost }
      { c with pc := target, cost := c.cost + cost } :=
  { h with
    pc := rfl
    sched := by simp [h.sched, Nat.add_assoc, Function.comp_def] }

/-- RETI pops PC and sets IME, wherever the handler stands and whenever it runs (R371). -/
theorem exec_reti_of_transferred (s : State) (target : Word) (n : Option Nat) :
    ∃ t, exec .reti { s with pc := target, sched := n } = .next t ∧ t.pc = s.pop16.1 ∧ t.sp = s.pop16.2.sp ∧
      t.ime = true ∧ t.regs = s.regs :=
  ⟨_, rfl, rfl, rfl, rfl, rfl⟩

/-! ### The statements -/

/-- Settles O2: reset is written out. -/
theorem resetHasTheInvariant : Obligations.ResetHasTheInvariant where
  flags := rfl
  mem := ⟨rfl, rfl, rfl⟩
  onTime := fun _ _ _ => Nat.zero_le _

/-- Settles O4: a tick always answers a next state, and what it leaves is `Follows.tick`. -/
theorem everyStepAnswersANextState : Obligations.EveryStepAnswersANextState := by
  intro s
  obtain ⟨t, ht⟩ := tick_next s.takeEnv
  exact ⟨_, step_of_tick ht, congrArg (· + 1) s.takeEnv_cycle, (Follows.tick ht).platform.trans s.takeEnv_platform⟩

/-- Settles O51: the environment's writes leave the record, and the tick does nothing. -/
theorem aFaultedCoreIsQuiescent : Obligations.AFaultedCoreIsQuiescent := by
  intro s hf
  have hfault := s.takeEnv_fault
  rw [← s.takeEnv_cycle]
  exact ⟨step_of_tick (tick_faulted _ (hfault ▸ hf)), hfault⟩

/-- Settles O52: the tick does nothing, and the environment's writes are no transactions of the CORE. -/
theorem anIdleTickChangesNothing : Obligations.AnIdleTickChangesNothing := by
  intro s n hf hs hn
  rw [← s.takeEnv_cycle] at hn ⊢
  exact ⟨step_of_tick (tick_idle _ hf hs hn), s.takeEnv_bus⟩

/-- Settles O56, by the head of the queue: due, not yet due, or none. -/
theorem theEnvironmentOnlyWritesThroughTheBus : Obligations.TheEnvironmentOnlyWritesThroughTheBus := by
  intro s
  refine ⟨s.takeEnv_eq, fun w rest hq hdue => ?_, fun w rest hq hlater => ?_, s.takeEnv_nil⟩
  · let t := s.store w.addr w.value
    have hcycle : t.cycle = s.cycle := s.store_cycle _ _
    calc s.takeEnv = applyDue t.cycle rest t := by rw [State.takeEnv, hq, applyDue, if_pos hdue, hcycle]
      _ = ({ t with env := rest } : State).takeEnv := (applyDue_withEnv t.cycle rest rest t).symm
  · rw [State.takeEnv, hq, applyDue, if_neg (Nat.not_le.mpr hlater), ← hq]

/-- Settles O48: the three bytes hold the instruction, the fetch reads its own, and it completes without a fault. -/
theorem aStepRunsTheDecodedInstruction : Obligations.AStepRunsTheDecodedInstruction := by
  intro s i rest e b0 e1 b1 e2 b2 reads hd hquiet hdecode hstop hslot
  obtain ⟨hi, -⟩ : decodeBytes b0 b1 b2 = i ∧ _ := by simpa [decode_three_bytes] using hdecode
  have hfetch : e.fetch = (i, { e with bus := reads.reverse ++ e.bus }) :=
    State.fetch_of_decodeBytes rfl rfl rfl hi hstop hslot
  have hrun := tick_of_fetch hd (e.accepted_none hquiet)
  rw [hfetch] at hrun
  obtain ⟨t, ht, hfault, htick⟩ := hrun hstop hslot
  exact ⟨t, ht, hfault, step_of_tick htick⟩

/-- Settles O49, by the byte at PC: a slot with no descriptor, STOP, or an instruction that completes. -/
theorem aFaultingTickIsPrecise : Obligations.AFaultingTickIsPrecise := by
  intro s e b slots hd hquiet
  have ha : e.accepted = none := e.accepted_none hquiet
  have hwake : e.wake = e := hd.wake_eq
  refine ⟨fun hb => ?_, fun hb => ?_, fun hslot hstop => ?_⟩
  · exact step_of_tick (tick_unmapped (hwake.symm ▸ hd) (hwake.symm ▸ ha) hb)
  · exact step_of_tick (tick_stop (hwake.symm ▸ hd) (hwake.symm ▸ ha) hb)
  · obtain ⟨b1, b2, hfetch⟩ := e.fetch_decodes
    obtain ⟨t, -, hfault, htick⟩ := tick_of_fetch hd ha (hfetch ▸ mt decodeBytes_eq_stop.mp hstop)
      (hfetch ▸ not_exists.mp (mt decodeBytes_eq_unmapped.mp hslot))
    exact ⟨_, step_of_tick htick, hfault⟩

/-- Settles O50: with IME off the un-parked CORE fetches, and the two ticks that fault keep the sched they found. -/
theorem aFaultOnTheWakeTickLeavesTheCoreParked : Obligations.AFaultOnTheWakeTickLeavesTheCoreParked := by
  intro s e b hf hs hp hime
  have hd : Dispatches e.wake := dispatches_wake hf hs hp
  have ha : e.wake.accepted = none := by
    rw [e.wake_eq]
    exact State.accepted_none _ (.inl hime)
  exact ⟨fun hb => step_of_tick (tick_unmapped hd ha hb), fun hb => step_of_tick (tick_stop hd ha hb)⟩

/-- Settles O53: un-parked or dispatched on this cycle, the CORE enters the same interrupt or runs the same instruction; only
the sched kept on a fault is another. -/
theorem aParkedCoreWakesOnAPendingInterrupt : Obligations.AParkedCoreWakesOnAPendingInterrupt := by
  intro s hf hs
  refine ⟨fun hp => ?_, fun hp => ?_⟩
  · exact tick_of_phase_halted s (by simp [State.phase, hf, hs]) hp
  · have hd : Dispatches s.wake := dispatches_wake hf hs hp
    rw [← s.wake_of_pending hs hp]
    cases ha : s.wake.accepted with
    | some i =>
      refine ⟨_, tick_service s.wake hd.1 hd.2 ha, ?_⟩
      rw [tick_of_accepted hd ha, State.enterInterrupt_fault, if_pos hd.1]
    | none =>
      obtain ⟨u, hu⟩ := exec_next s.wake.fetch.1 s.wake.fetch.2
      have hwoken := tick_dispatch s.wake hd.1 hd.2 ha
      have hparked := tick_of_not_accepted hd ha
      rw [hu, keepSchedOnFault_eq] at hwoken hparked
      refine ⟨_, hwoken, hparked.trans ?_⟩
      by_cases hfault : u.fault = none
      · simp [hfault]
      · simp [hfault, hs]

/-- Settles O54: the lowest pending and enabled source is accepted, parked before or not, and its entry is a push of PC and a
transfer. -/
theorem interruptEntry : Obligations.InterruptEntry := by
  intro s i e hm hf hs hime hi hbit hlow e1
  obtain ⟨src, rfl⟩ := Source.exists_bit hi
  have ha : e.accepted = some src := State.accepted_eq hime hbit hlow
  have hwake : e.wake = { e with sched := some e.cycle } := by
    obtain hs | hs := hs
    · rw [e.wake_of_scheduled hs, ← hs]
    · exact e.wake_of_pending hs (State.pending_ne_zero_of_accepted ha)
  have htick : tick e = .next (e.wake.enterInterrupt src) := by
    refine tick_of_accepted ?_ ?_
    · rw [hwake]; exact ⟨hf, rfl⟩
    · rw [hwake]; exact ha
  refine ⟨_, step_of_tick htick, ?_⟩
  rw [hwake, State.enterInterrupt_eq]
  exact ((Changed.refl e1).push16 hm nofun e.pc).transfer _ 5

/-- Settles O55: RETI pops what the entry pushed. -/
theorem returnFromInterruptRestores : Obligations.ReturnFromInterruptRestores := by
  intro s i hm hlo hhi
  let cleared : State := { s with ime := false, iflag := s.iflag &&& ~~~BitVec.twoPow 8 i.bit }
  obtain ⟨-, -, -, hpc, hsp, -⟩ := popAfterPushRestores cleared s.pc hm hlo hhi
  rw [State.enterInterrupt_eq]
  obtain ⟨t, ht, htpc, htsp, htime, htregs⟩ := exec_reti_of_transferred (cleared.push16 s.pc) _ _
  exact ⟨t, ht, htpc.trans hpc, htsp.trans hsp, htime, htregs.trans (cleared.push16_regs s.pc)⟩

end Sys2Proof.Machine
end
